-- ==== Sys2Proof/Config.lean ====
section
/-! DEFINITION. The implementation parameters of R5, each a constant of its own, and the values the spec leaves
unspecified (U1, U2). What the spec leaves OPEN has no body here, so no proof can see a value of it. -/

namespace Sys2Proof.Config

/-! ## Widths -/

/-- REG_W: the width of a register. -/
def regW : Nat := 32

/-- WORD: the width of a VLC output word and of a wavelet coefficient, and of a SIT cell (R22). -/
def wordW : Nat := 32

/-- The bytes of a WORD. -/
def wordBytes : Nat := wordW / 8

/-! ## Open parameters (log 1) -/

/-- REG_BASE (R5, R44): the bus address of register 0; no rule depends on it. -/
opaque regBase : Nat

/-- What IN_CAP has beyond the 0x40000 bytes R5 guarantees, kept below 2^32 by its type. -/
opaque inExtra : Fin 4294705152

/-- What OUT_CAP has beyond the 0x40000 bytes R5 guarantees, kept below 2^32 by its type. -/
opaque outExtra : Fin 4294705152

/-- The part of IN_CAP and OUT_CAP that R5 guarantees. -/
def capFloor : Nat := 0x40000

/-- IN_CAP (R5, R20). -/
def inCap : Nat := inExtra.val + capFloor

/-- OUT_CAP (R5, R21). -/
def outCap : Nat := outExtra.val + capFloor

/-- Register `i` sits at byte offset `4*i` from REG_BASE (R10). -/
def regAddress (i : Nat) : Nat := regBase + 4 * i

/-! ## Unspecified values -/

/-- What the host read after `k` others returns where the engine owns what it reads (R47, U2; log 2). -/
opaque unspecRead : (k : Nat) → BitVec (delta% regW)

/-- What address `a` of IN holds since reset number `k` until the host writes it (R20, R300, U1; log 2). -/
opaque unspecIn : (k a : Nat) → BitVec 8

/-- What cell `a` of SIT holds since reset number `k` until the host writes it (R22, R300, U1; log 2). -/
opaque unspecSit : (k a : Nat) → BitVec (delta% wordW)

/-- What address `a` of OUT, at or above DST_LEN, holds since reset number `k` and command start number `j` (R21,
U1; log 2). -/
opaque unspecOut : (k j a : Nat) → BitVec 8

/-- What an address of WIN that nothing has written holds (R23, R300: unspecified; log 3). -/
opaque unspecByte : Nat → BitVec 8

/-- What a wavelet cell that nothing has written holds (R27, R300: unspecified; log 3). -/
opaque unspecWord : Nat → BitVec (delta% wordW)

/-! ## Sizes -/

/-- SIT_CAP. -/
def sitCap : Nat := 8192
/-- WIN_SIZE. -/
def winSize : Nat := 0x4500
/-- WIN_FLUSH. -/
def winFlush : Nat := 0x4000
/-- WIN_SLIDE. -/
def winSlide : Nat := 0x2000
/-- WAV_MAX. -/
def wavMax : Nat := 0x10000
/-- TAB2_SIZE. -/
def tab2Size : Nat := 256

/-! ## LZSS -/

/-- LZSS_CTLW. -/
def lzssCtlw : Nat := 16
/-- The bytes of a control word. -/
def lzssCtlBytes : Nat := lzssCtlw / 8
/-- What `bitbuf` holds in command start number `k` before its first control word is loaded, and so for good where
none is (R28, R120, R121: no value; log 22). -/
opaque unspecBitbuf : (k : Nat) → BitVec (delta% lzssCtlw)
/-- LZSS_SHORT_MAXDIST. -/
def lzssShortMaxDist : Nat := 256
/-- LZSS_LOOKBACK. -/
def lzssLookback : Nat := 8192
/-- LZSS_MAXLEN. -/
def lzssMaxLen : Nat := 253
/-- LZSS_PAD. -/
def lzssPad : Nat := 16
/-- LZSS_EAGER_REFILL (D11): the next control word is loaded, or reserved, when the 16th bit is taken or put;
`false` would do it when the next bit is wanted. -/
def lzssEagerRefill : Bool := true

/-! ## LZW -/

/-- LZW_MIN_BITS. -/
def lzwMinBits : Nat := 9
/-- LZW_CLEAR. -/
def lzwClear : Nat := 256
/-- LZW_FIRST. -/
def lzwFirst : Nat := 257
/-- LZW_MAX_LIMIT. -/
def lzwMaxLimit : Nat := 12
/-- LZW_EARLY_CHANGE (D23): `true` would widen the code when `next = 2^w` already. -/
def lzwEarlyChange : Bool := false

/-! ## RLE -/

/-- RLE_CTL. -/
def rleCtl : BitVec 8 := 0x90
/-- RLE_MINRUN. -/
def rleMinRun : Nat := 3
/-- RLE_MAXRUN. -/
def rleMaxRun : Nat := 255
/-- RLE_COUNT_IS_TOTAL (D26): `90 n` makes the run `n` long in all; `false` would add `n` further copies. -/
def rleCountIsTotal : Bool := true

/-! ## VLC -/

/-- VLC_FIELD. -/
def vlcField : Nat := 13
/-- VLC_LOOK. -/
def vlcLook : Nat := 8
/-- VLC_ZRUN_BITS (U4, D32): the width of the run field after a code of `depth` bits. The spec's choice is 10
at every depth; the other reading it names is `depth + 2`. -/
def vlcZrunBits (_depth : Nat) : Nat := 10

end Sys2Proof.Config
end

