-- ==== Sys2Proof/Word.lean ====
section
/-! DEFINITION. The data types of the block: bytes of IN, OUT and WIN (R20, R21, R23), registers (R10), and words
(SIT, TAB2 values, VLC output, wavelet cells: R22, R26, R27). -/

namespace Sys2Proof

/-- One byte. -/
abbrev Byte := BitVec 8

/-- The value of a register: REG_W bits (R5, R10). `delta%` puts the parameter's value for its name, so that the
width is a numeral. -/
abbrev Reg := BitVec (delta% Config.regW)

/-- One WORD (R5). -/
abbrev Word := BitVec (delta% Config.wordW)

/-- An LZSS control word: LZSS_CTLW bits (R5, R28). -/
abbrev CtlWord := BitVec (delta% Config.lzssCtlw)

end Sys2Proof
end

