-- ==== Sys2Proof/Syntax.lean ====
section
/-! DEFINITION. The instructions of the block, one constructor per row of `spec/opcode_table.json`: the ten
commands the host writes to CMD (R60) and the sixteen tokens of the compressed streams (R63 to R78); the units
they are encoded in; and the two table formats of the VLC decoder (R25, R26). -/

namespace Sys2Proof

/-- One instruction. A command carries no operand: its operands are registers (R14, R60). -/
inductive Instr where
  /-- LZSS_DEC, OP 0x01 (R124). -/
  | lzssDec
  /-- LZSS_ENC, OP 0x02 (R148). -/
  | lzssEnc
  /-- LZW_DEC, OP 0x03 (R165). -/
  | lzwDec
  /-- LZW_ENC, OP 0x04 (R172). -/
  | lzwEnc
  /-- RLE_DEC, OP 0x05 (R191). -/
  | rleDec
  /-- RLE_ENC, OP 0x06 (R196). -/
  | rleEnc
  /-- WAVELET_INV, OP 0x07 (R211). -/
  | waveletInv
  /-- VLC_BUILD, OP 0x08 (R233). -/
  | vlcBuild
  /-- VLC_DECODE, OP 0x09 (R241). -/
  | vlcDecode
  /-- CLEAR, OP 0x0F (R106). -/
  | clear
  /-- LZSS token LIT (R63): the literal byte. -/
  | lzssLit (v : Byte)
  /-- LZSS token SREF (R64): length 2 to 5, distance 1 to 256. -/
  | lzssSref (len dist : Nat)
  /-- LZSS token LREF (R66): length 3 to 9, distance 1 to 8192. -/
  | lzssLref (len dist : Nat)
  /-- LZSS token XREF (R67): length 3 to 256, distance 1 to 8192. -/
  | lzssXref (len dist : Nat)
  /-- LZSS token SEG (R68): the 13 descriptor bits, which nothing uses. -/
  | lzssSeg (off13 : Nat)
  /-- LZSS token END (R69): the 13 descriptor bits, which nothing uses. -/
  | lzssEnd (off13 : Nat)
  /-- LZW code 0 to 255 (R73). -/
  | lzwByte (b : Byte)
  /-- LZW code 256 (R73). -/
  | lzwClr
  /-- LZW code of an assigned string (R73). -/
  | lzwEntry (k : Nat)
  /-- LZW code of the string this very code defines (R73). -/
  | lzwKwk (k : Nat)
  /-- RLE literal byte, not 0x90 (R74). -/
  | rleByte (b : Byte)
  /-- RLE `90 00`, a literal 0x90 (R74). -/
  | rleEsc
  /-- RLE `90 n`, a run of total length `n`, 1 to 255 (R74). -/
  | rleRun (n : Nat)
  /-- VLC code of a terminal with SIT index other than 0, at most 8 path bits (R78). -/
  | vlcTerm (path : List Bool)
  /-- VLC code of the terminal with SIT index 0, at most 8 path bits, then the run field (R78). -/
  | vlcZrun (path : List Bool) (run : Nat)
  /-- VLC code of more than 8 path bits (R78). -/
  | vlcDeep (path : List Bool)
  deriving DecidableEq, Repr

/-- One unit of an LZSS stream in consumption order (R62): a control bit or a data byte. -/
inductive LzssUnit where
  | bit (b : Bool)
  | byte (v : Byte)
  deriving DecidableEq, Repr

/-- An encoded instruction, in the units its level of the block uses. -/
inductive Encoded where
  /-- A value written to CMD (R60). -/
  | command (c : Reg)
  /-- An LZSS token (R70). -/
  | lzss (us : List LzssUnit)
  /-- An LZW code value; the stream holds its low `w` bits, LSB first (R72). -/
  | lzw (k : Nat)
  /-- An RLE token (R74). -/
  | rle (bs : List Byte)
  /-- A VLC code with its run field, in stream order (R78). -/
  | vlc (bits : List Bool)
  deriving DecidableEq, Repr

/-- One TAB1 entry (R25): two 13-bit child indexes. -/
structure Tab1Pair where
  left : Nat
  right : Nat
  deriving DecidableEq, Repr

/-- The kind of a TAB2 entry (R26). -/
inductive Tab2Kind where
  | terminal
  | zerorun
  | deferred
  deriving DecidableEq, Repr

/-- One TAB2 entry (R26): `val` is the output word of a TERMINAL, 0 for a ZERORUN, the Tab1 node of a DEFERRED. -/
structure Tab2Entry where
  kind : Tab2Kind
  val : Word
  len : Nat
  deriving DecidableEq, Repr

/-- Where a walk of Tab1 stands (R77): at a pair of TAB1, or at a terminal, named by its SIT index. -/
inductive VlcNode where
  | inner (i : Nat)
  | leaf (idx : Nat)
  deriving DecidableEq, Repr

/-- The tables a VLC code is read with: TAB1, TAB2 and the saved-index count S (R230). -/
structure VlcTables where
  tab1 : List Tab1Pair
  tab2 : List Tab2Entry
  s : Nat
  deriving DecidableEq, Repr

/-- What an LZW code value is classified by (R73): the next free code, `max_code_width`, and whether a previous
code exists. -/
structure LzwCtx where
  next : Nat
  maxW : Nat
  havePrev : Bool
  deriving DecidableEq, Repr

/-- Everything outside its own bits that an instruction's decoding depends on. -/
structure DecodeCtx where
  lzw : LzwCtx
  vlc : VlcTables
  deriving DecidableEq, Repr

end Sys2Proof
end

