-- ==== Sys2Proof/WellFormed.lean ====
section
/-! DEFINITION. The operand ranges the encodings admit (R63 to R78): an instruction outside them has no encoding. -/

namespace Sys2Proof

/-- The operand checks of one instruction, independent of any state. -/
def Instr.wellFormed : Instr → Bool
  | .lzssDec => true
  | .lzssEnc => true
  | .lzwDec => true
  | .lzwEnc => true
  | .rleDec => true
  | .rleEnc => true
  | .waveletInv => true
  | .vlcBuild => true
  | .vlcDecode => true
  | .clear => true
  | .lzssLit _ => true
  | .lzssSref len dist => decide (2 ≤ len ∧ len ≤ 5 ∧ 1 ≤ dist ∧ dist ≤ Config.lzssShortMaxDist)
  | .lzssLref len dist => decide (3 ≤ len ∧ len ≤ 9 ∧ 1 ≤ dist ∧ dist ≤ Config.lzssLookback)
  | .lzssXref len dist => decide (3 ≤ len ∧ len ≤ 256 ∧ 1 ≤ dist ∧ dist ≤ Config.lzssLookback)
  | .lzssSeg off13 => decide (off13 < Config.lzssLookback)
  | .lzssEnd off13 => decide (off13 < Config.lzssLookback)
  | .lzwByte _ => true
  | .lzwClr => true
  | .lzwEntry k => decide (Config.lzwFirst ≤ k ∧ k < 2 ^ Config.lzwMaxLimit)
  | .lzwKwk k => decide (Config.lzwFirst ≤ k ∧ k < 2 ^ Config.lzwMaxLimit)
  | .rleByte b => decide (b ≠ Config.rleCtl)
  | .rleEsc => true
  | .rleRun n => decide (1 ≤ n ∧ n ≤ Config.rleMaxRun)
  | .vlcTerm path => decide (1 ≤ path.length ∧ path.length ≤ Config.vlcLook)
  | .vlcZrun path run =>
      decide (path.length ≤ Config.vlcLook ∧ run < 2 ^ Config.vlcZrunBits path.length)
  | .vlcDeep path => decide (Config.vlcLook < path.length)

end Sys2Proof
end

