-- ==== Sys2Proof/Decode.lean ====
section
/-! DEFINITION. Decoding of commands and tokens (R60 to R78), total on any input and refusing by name; after it the
encoder, written from the same tables; last `decodeTableWord`, the decoder on a word numbered as
`spec/opcode_table.json` numbers it. -/

namespace Sys2Proof

/-- Why a decoder reads no instruction. -/
inductive DecodeError where
  /-- A CMD value outside R60 (R61). -/
  | illegalCommand
  /-- The stream ends inside the token (R125, R194). -/
  | truncated
  /-- A control bit stands where a data byte is wanted, or the other way round. -/
  | wrongUnit
  /-- An LZW code value that names nothing (R169). -/
  | lzwBadCode
  /-- The VLC token is not wholly inside the chunk (R246). -/
  | endOfChunk
  /-- The VLC tables have no entry for it. -/
  | noTable
  /-- Units are left over after the instruction. -/
  | trailing
  deriving DecidableEq, Repr

/-! ## Bit strings (R41): LSB first -/

/-- The unsigned number whose bit `i` is the list's `i`-th element. -/
def bitsToNat : List Bool → Nat
  | [] => 0
  | b :: bs => b.toNat + 2 * bitsToNat bs

/-- The low `w` bits of `v`, bit 0 first. -/
def natToBits (v : Nat) : Nat → List Bool
  | 0 => []
  | w + 1 => (v % 2 == 1) :: natToBits (v / 2) w

/-! ## Decoding: commands -/

/-- R60, R61: the command a CMD value stands for. -/
def decodeCommand (c : Reg) : Except DecodeError Instr :=
  match c.toNat with
  | 0x01 => .ok .lzssDec
  | 0x02 => .ok .lzssEnc
  | 0x03 => .ok .lzwDec
  | 0x04 => .ok .lzwEnc
  | 0x05 => .ok .rleDec
  | 0x06 => .ok .rleEnc
  | 0x07 => .ok .waveletInv
  | 0x08 => .ok .vlcBuild
  | 0x09 => .ok .vlcDecode
  | 0x0F => .ok .clear
  | _ => .error .illegalCommand

/-! ## Decoding: LZSS tokens -/

/-- What an LZSS token needs next, given the units of it taken so far. -/
inductive LzssWant where
  | bit
  | byte
  | token (i : Instr)
  | bad
  deriving DecidableEq, Repr

/-- `off13 = hi[7:3] << 8 | lo` (R65). -/
def lzssOff13 (lo hi : Byte) : Nat := hi.toNat / 8 * 256 + lo.toNat

/-- `dist = 0x2000 - off13` (R65). -/
def lzssLongDist (lo hi : Byte) : Nat := 0x2000 - lzssOff13 lo hi

/-- R67 to R69: the token of a long descriptor with `lc = 0` and escape byte `e`. -/
def lzssEscape (lo hi e : Byte) : Instr :=
  if e.toNat = 0 then .lzssEnd (lzssOff13 lo hi)
  else if e.toNat = 1 then .lzssSeg (lzssOff13 lo hi)
  else .lzssXref (e.toNat + 1) (lzssLongDist lo hi)

/-- R70, one row per prefix of a token: the LZSS token space, which is complete. -/
def lzssWant : List LzssUnit → LzssWant
  | [] => .bit
  | [.bit true] => .byte
  | [.bit true, .byte v] => .token (.lzssLit v)
  | [.bit false] => .bit
  | [.bit false, .bit false] => .bit
  | [.bit false, .bit false, .bit _] => .bit
  | [.bit false, .bit false, .bit _, .bit _] => .byte
  | [.bit false, .bit false, .bit h, .bit l, .byte o] =>
      .token (.lzssSref (2 * h.toNat + l.toNat + 2) (0x100 - o.toNat))
  | [.bit false, .bit true] => .byte
  | [.bit false, .bit true, .byte _] => .byte
  | [.bit false, .bit true, .byte lo, .byte hi] =>
      if hi.toNat % 8 = 0 then .byte else .token (.lzssLref (hi.toNat % 8 + 2) (lzssLongDist lo hi))
  | [.bit false, .bit true, .byte lo, .byte hi, .byte e] =>
      if hi.toNat % 8 = 0 then .token (lzssEscape lo hi e) else .bad
  | _ => .bad

/-- Decodes one LZSS token from a list of units, `got` being those already taken. -/
def decodeLzssFrom (got : List LzssUnit) : List LzssUnit → Except DecodeError (Instr × List LzssUnit)
  | [] =>
      match lzssWant got with
      | .token i => .ok (i, [])
      | .bit => .error .truncated
      | .byte => .error .truncated
      | .bad => .error .wrongUnit
  | u :: us =>
      match lzssWant got with
      | .token i => .ok (i, u :: us)
      | .bit => decodeLzssFrom (got ++ [u]) us
      | .byte => decodeLzssFrom (got ++ [u]) us
      | .bad => .error .wrongUnit

/-- One LZSS token from the head of a list of units, with the units left. -/
def decodeLzss (us : List LzssUnit) : Except DecodeError (Instr × List LzssUnit) :=
  decodeLzssFrom [] us

/-! ## Decoding: LZW codes -/

/-- R73, R166 to R169: the class of a code value. -/
def decodeLzw (ctx : LzwCtx) (k : Nat) : Except DecodeError Instr :=
  if k < 256 then .ok (.lzwByte (BitVec.ofNat 8 k))
  else if k = Config.lzwClear then .ok .lzwClr
  else if k < ctx.next then .ok (.lzwEntry k)
  else if k = ctx.next ∧ ctx.havePrev = true ∧ ctx.next < 2 ^ ctx.maxW then .ok (.lzwKwk k)
  else .error .lzwBadCode

/-! ## Decoding: RLE tokens -/

/-- R74: one RLE token from the head of a byte sequence, with the bytes left. -/
def decodeRle : List Byte → Except DecodeError (Instr × List Byte)
  | [] => .error .truncated
  | b :: rest =>
      if b = Config.rleCtl then
        match rest with
        | [] => .error .truncated
        | n :: rest' => if n.toNat = 0 then .ok (.rleEsc, rest') else .ok (.rleRun n.toNat, rest')
      else .ok (.rleByte b, rest)

/-! ## Decoding: VLC codes -/

/-- R77: what child index `c` means with saved-index count `s`. -/
def vlcChild (s c : Nat) : VlcNode :=
  if c < s then .leaf c else .inner (c - s)

/-- R77: the root is `TAB1[cnt - 1]`, or with no pair the terminal of index `S - 1`. -/
def vlcRoot (t : VlcTables) : VlcNode :=
  if t.tab1.length = 0 then .leaf (t.s - 1) else .inner (t.tab1.length - 1)

/-- R78: bit 0 selects `left`, bit 1 selects `right`. -/
def vlcPick (pr : Tab1Pair) (b : Bool) : Nat :=
  if b then pr.right else pr.left

/-- Walks Tab1 one bit a step from a node until a terminal or the end of the bits (R237, R245): where it stands
and how many bits it took. `none` where a step would read a pair that does not exist. -/
def vlcDescend (t : VlcTables) : VlcNode → List Bool → Option (VlcNode × Nat)
  | .leaf idx, _ => some (.leaf idx, 0)
  | .inner i, [] => some (.inner i, 0)
  | .inner i, b :: bs =>
      match t.tab1[i]? with
      | none => none
      | some pr => (vlcDescend t (vlcChild t.s (vlcPick pr b)) bs).map fun r => (r.1, r.2 + 1)

/-- R242: the 8-bit lookahead, bits beyond the chunk reading 0. -/
def vlcLookahead (bits : List Bool) : Nat :=
  bitsToNat (bits.take Config.vlcLook)

/-- The TAB2 entry the lookahead of `bits` selects. -/
def vlcEntry (t : VlcTables) (bits : List Bool) : Option Tab2Entry :=
  t.tab2[vlcLookahead bits]?

/-- R241 to R246: one VLC token from the head of a chunk's bits, with the bits left. -/
def decodeVlc (t : VlcTables) (bits : List Bool) : Except DecodeError (Instr × List Bool) :=
  match vlcEntry t bits with
  | none => .error .noTable
  | some e =>
      match e.kind with
      | .terminal =>
          if bits.length < e.len then .error .endOfChunk
          else .ok (.vlcTerm (bits.take e.len), bits.drop e.len)
      | .zerorun =>
          if bits.length < e.len + Config.vlcZrunBits e.len then .error .endOfChunk
          else .ok (.vlcZrun (bits.take e.len)
              (bitsToNat ((bits.drop e.len).take (Config.vlcZrunBits e.len))),
            bits.drop (e.len + Config.vlcZrunBits e.len))
      | .deferred =>
          if bits.length < Config.vlcLook then .error .endOfChunk
          else
            match vlcDescend t (.inner e.val.toNat) (bits.drop Config.vlcLook) with
            | none => .error .noTable
            | some (.inner _, _) => .error .endOfChunk
            | some (.leaf _, k) =>
                .ok (.vlcDeep (bits.take (Config.vlcLook + k)), bits.drop (Config.vlcLook + k))

/-! ## Decoding: any instruction -/

/-- The instruction with nothing left over. -/
def wholeOf {α : Type} (r : Except DecodeError (Instr × List α)) : Except DecodeError Instr :=
  match r with
  | .error e => .error e
  | .ok (i, []) => .ok i
  | .ok (_, _ :: _) => .error .trailing

/-- Decodes one encoded instruction that fills its units exactly. -/
def decode (ctx : DecodeCtx) : Encoded → Except DecodeError Instr
  | .command c => decodeCommand c
  | .lzss us => wholeOf (decodeLzss us)
  | .lzw k => decodeLzw ctx.lzw k
  | .rle bs => wholeOf (decodeRle bs)
  | .vlc bits => wholeOf (decodeVlc ctx.vlc bits)

/-! ## Encoding -/

/-- R60: the CMD value of opcode `op`. -/
def commandWord (op : Nat) : Reg := BitVec.ofNat _ op

/-- R64. -/
def lzssShortUnits (len dist : Nat) : List LzssUnit :=
  [.bit false, .bit false, .bit ((len - 2) / 2 == 1), .bit ((len - 2) % 2 == 1),
    .byte (BitVec.ofNat 8 (0x100 - dist))]

/-- R65: control bits 0, 1 and the two descriptor bytes. -/
def lzssLongUnits (off13 lc : Nat) : List LzssUnit :=
  [.bit false, .bit true, .byte (BitVec.ofNat 8 (off13 % 256)),
    .byte (BitVec.ofNat 8 (off13 / 256 * 8 + lc))]

/-- The encoding of an instruction (R60 to R78). -/
def encode : Instr → Encoded
  | .lzssDec => .command (commandWord 0x01)
  | .lzssEnc => .command (commandWord 0x02)
  | .lzwDec => .command (commandWord 0x03)
  | .lzwEnc => .command (commandWord 0x04)
  | .rleDec => .command (commandWord 0x05)
  | .rleEnc => .command (commandWord 0x06)
  | .waveletInv => .command (commandWord 0x07)
  | .vlcBuild => .command (commandWord 0x08)
  | .vlcDecode => .command (commandWord 0x09)
  | .clear => .command (commandWord 0x0F)
  | .lzssLit v => .lzss [.bit true, .byte v]
  | .lzssSref len dist => .lzss (lzssShortUnits len dist)
  | .lzssLref len dist => .lzss (lzssLongUnits (0x2000 - dist) (len - 2))
  | .lzssXref len dist =>
      .lzss (lzssLongUnits (0x2000 - dist) 0 ++ [.byte (BitVec.ofNat 8 (len - 1))])
  | .lzssSeg off13 => .lzss (lzssLongUnits off13 0 ++ [.byte 1])
  | .lzssEnd off13 => .lzss (lzssLongUnits off13 0 ++ [.byte 0])
  | .lzwByte b => .lzw b.toNat
  | .lzwClr => .lzw Config.lzwClear
  | .lzwEntry k => .lzw k
  | .lzwKwk k => .lzw k
  | .rleByte b => .rle [b]
  | .rleEsc => .rle [Config.rleCtl, 0]
  | .rleRun n => .rle [Config.rleCtl, BitVec.ofNat 8 n]
  | .vlcTerm path => .vlc path
  | .vlcZrun path run => .vlc (path ++ natToBits run (Config.vlcZrunBits path.length))
  | .vlcDeep path => .vlc path

/-- The LZSS units of an encoded LZSS token (none of any other). -/
def Encoded.lzssUnits : Encoded → List LzssUnit
  | .command _ => []
  | .lzss us => us
  | .lzw _ => []
  | .rle _ => []
  | .vlc _ => []

/-- How many bits an encoding takes in its stream, `w` being the code width of an LZW code (R62, R72, R74, R78). -/
def Encoded.bitCount (w : Nat) : Encoded → Nat
  | .command _ => Config.regW
  | .lzss us => (us.map fun u => match u with | .bit _ => 1 | .byte _ => 8).sum
  | .lzw _ => w
  | .rle bs => 8 * bs.length
  | .vlc bits => bits.length

/-- Whether the state-dependent part of an instruction's encoding (R73, R78) stands for it: an LZW code value is
classified by the dictionary, a VLC path by the tables. -/
def Instr.fits (ctx : DecodeCtx) : Instr → Bool
  | .lzssDec => true
  | .lzssEnc => true
  | .lzwDec => true
  | .lzwEnc => true
  | .rleDec => true
  | .rleEnc => true
  | .waveletInv => true
  | .vlcBuild => true
  | .vlcDecode => true
  | .clear => true
  | .lzssLit _ => true
  | .lzssSref _ _ => true
  | .lzssLref _ _ => true
  | .lzssXref _ _ => true
  | .lzssSeg _ => true
  | .lzssEnd _ => true
  | .lzwByte _ => true
  | .lzwClr => true
  | .lzwEntry k => decide (k < ctx.lzw.next)
  | .lzwKwk k => decide (k = ctx.lzw.next ∧ ctx.lzw.havePrev = true ∧ k < 2 ^ ctx.lzw.maxW)
  | .rleByte _ => true
  | .rleEsc => true
  | .rleRun _ => true
  | .vlcTerm path =>
      match vlcEntry ctx.vlc path with
      | some e => decide (e.kind = .terminal ∧ e.len = path.length)
      | none => false
  | .vlcZrun path run =>
      match vlcEntry ctx.vlc (path ++ natToBits run (Config.vlcZrunBits path.length)) with
      | some e => decide (e.kind = .zerorun ∧ e.len = path.length)
      | none => false
  | .vlcDeep path =>
      match vlcEntry ctx.vlc path with
      | some e =>
          match vlcDescend ctx.vlc (.inner e.val.toNat) (path.drop Config.vlcLook) with
          | some (.leaf _, k) => decide (e.kind = .deferred ∧ Config.vlcLook + k = path.length)
          | some (.inner _, _) => false
          | none => false
      | none => false

/-! ## Words of the opcode table -/

/-- The instruction of a decoding result, with what is left of the stream dropped. -/
def instrOf? {α : Type} (r : Except DecodeError (Instr × List α)) : Option Instr :=
  match r with
  | .error _ => none
  | .ok (i, _) => some i

/-- The bytes of a 16-bit RLE row of the table: the table writes the pattern as one number with the FIRST byte of
the stream in bits 15:8 (log 11). -/
def tableRleBytes (w : Nat) : List Byte :=
  [BitVec.ofNat 8 (w / 256), BitVec.ofNat 8 w]

/-- The decoder on a word of `spec/opcode_table.json`. The table numbers the bits of the ten commands (32 bits),
of the two-byte RLE tokens (16 bits) and of the one-byte RLE token (8 bits); the other tokens' bits are spread over
control words, a changing code width or a table's paths, and have no number (log 11). -/
def decodeTableWord (nbits w : Nat) : Option Instr :=
  if nbits = Config.regW then
    match decodeCommand (BitVec.ofNat _ w) with
    | .ok i => some i
    | .error _ => none
  else if nbits = 16 then instrOf? (decodeRle (tableRleBytes w))
  else if nbits = 8 then instrOf? (decodeRle [BitVec.ofNat 8 w])
  else none

end Sys2Proof
end

