-- ==== Sys2Proof/Machine/State.lean ====
section
/-! DEFINITION. The state of the block as plain data: the register file (R10), the apertures (R20 to R22), the
private stores that outlive a command (R23, R25, R26), the working state of the running command (R29), and the
host's side: its pending accesses and the values its reads returned (R30, R312). Reset (R300). -/

namespace Sys2Proof.Machine

/-- A store by address: addresses strictly rising, an unlisted address holding no value (R20: "a model treats a
never-written byte as holding no value"). -/
abbrev Mem (α : Type) := List (Nat × α)

/-- A byte store. -/
abbrev Memory := List Host.Cell

/-- The block's faults (R270). They are not stops of the model: `raise` takes each as a next state. -/
inductive BlockFault where
  | truncatedInput
  /-- Never raised (R272). -/
  | invalidHeader
  /-- Never raised (R272). -/
  | unsupportedBlockType
  | sizeMismatch
  /-- Never raised (R272). -/
  | invalidPalette
  | unexpectedEndOfStream
  | illegalCommand
  | badParameter
  | outputOverflow
  | lzssBadDistance
  | lzwBadCode
  | rleNoPrevious
  | vlcBadTable
  | vlcNoTable
  | vlcZeroLengthCode
  | arithmeticOverflow
  deriving DecidableEq, Repr

/-- The operands a command latched at its start (R101): register values read as numbers. -/
structure Latch where
  /-- SRC_OFF. -/
  off : Nat
  /-- SRC_LEN. -/
  n : Nat
  /-- DST_CAP. -/
  cap : Nat
  /-- ARG0. -/
  a0 : Nat
  /-- ARG1. -/
  a1 : Nat
  deriving DecidableEq, Repr

/-- LZSS_DEC's working state (R16, R23, R28, R124). -/
structure LzssDecWork where
  /-- The input cursor. -/
  ip : Nat
  /-- The shift buffer of control bits. -/
  bitbuf : CtlWord
  /-- Control bits left in it; 0 is an exhausted bit source. -/
  bitcnt : Nat
  /-- The window's write cursor. -/
  wp : Nat
  /-- Bytes already flushed to OUT. -/
  total : Nat
  deriving DecidableEq, Repr

/-- LZSS_ENC's working state (R28, R145, R148). -/
structure LzssEncWork where
  /-- Index of the next input byte. -/
  pos : Nat
  /-- The control word being filled. -/
  cw : CtlWord
  /-- Its bits filled. -/
  cc : Nat
  /-- The OUT address reserved for it. -/
  slot : Nat
  deriving DecidableEq, Repr

/-- LZW_DEC's working state (R24, R160, R165). DICT is the list of strings of codes 257, 258, ...; `next` is
computed from its length. -/
structure LzwDecWork where
  /-- The bit cursor. -/
  p : Nat
  /-- The current code width. -/
  w : Nat
  /-- `max_code_width`. -/
  maxW : Nat
  dict : List (List Byte)
  /-- The previous code, none at the start and after a reset code. -/
  prev : Option Nat
  deriving DecidableEq, Repr

/-- LZW_ENC's working state (R24, R160, R172, R174). DICT is the list of (prefix code, byte) of codes 257,
258, ... -/
structure LzwEncWork where
  /-- Index of the next input byte. -/
  i : Nat
  w : Nat
  maxW : Nat
  dict : List (Nat × Byte)
  /-- P: the code of the longest known string so far. -/
  pre : Option Nat
  /-- Output bits not yet a whole byte. -/
  acc : List Bool
  deriving DecidableEq, Repr

/-- RLE_DEC's working state (R190): `last = none` is `have = false`. -/
structure RleDecWork where
  ip : Nat
  last : Option Byte
  deriving DecidableEq, Repr

/-- RLE_ENC's working state (R196). -/
structure RleEncWork where
  i : Nat
  deriving DecidableEq, Repr

/-- WAVELET_INV's working state (R27, R210, R213): `y = some _` between a horizontal and a vertical pass. -/
structure WaveletWork where
  /-- The plane is `size` by `size`. -/
  size : Nat
  /-- The tile size. -/
  t : Nat
  coef : List Word
  y : Option (List Word)
  deriving DecidableEq, Repr

/-- VLC_BUILD's working state (R16, R233, R234). -/
structure VlcBuildWork where
  /-- The bit cursor. -/
  p : Nat
  cnt : Nat
  /-- S, the saved-index count. -/
  s : Nat
  deriving DecidableEq, Repr

/-- VLC_DECODE's working state (R241). -/
structure VlcDecodeWork where
  /-- The bit cursor. -/
  p : Nat
  words : Nat
  deriving DecidableEq, Repr

/-- The working state of the running command (R29). -/
inductive Work where
  | lzssDec (w : LzssDecWork)
  | lzssEnc (w : LzssEncWork)
  | lzwDec (w : LzwDecWork)
  | lzwEnc (w : LzwEncWork)
  | rleDec (w : RleDecWork)
  | rleEnc (w : RleEncWork)
  | wavelet (w : WaveletWork)
  | vlcBuild (w : VlcBuildWork)
  | vlcDecode (w : VlcDecodeWork)
  deriving DecidableEq, Repr

/-- The engine (R30): idle, or running a command on latched operands. Working state does not exist between
commands (R300). -/
inductive Engine where
  | idle
  | run (l : Latch) (w : Work)
  deriving DecidableEq, Repr

/-- One access of the host, or a reset (R10, R20 to R22, R300). -/
inductive HostOp where
  | writeReg (r : Nat) (v : Reg)
  | readReg (r : Nat)
  | writeIn (a : Nat) (v : Byte)
  | readIn (a : Nat)
  | readOut (a : Nat)
  | writeSit (a : Nat) (v : Word)
  | readSit (a : Nat)
  | reset
  deriving DecidableEq, Repr

/-- A pending host access and the number of engine steps that come before it if the engine is running (log 6). -/
structure HostEvent where
  delay : Nat
  op : HostOp
  deriving DecidableEq, Repr

/-- The whole machine. -/
structure State where
  /-- Register 0 (R11). -/
  cmd : Reg
  /-- Register 1 (R12). -/
  status : Reg
  /-- Register 2 (R13). -/
  errcode : Reg
  /-- Register 3 (R13). -/
  errpos : Reg
  /-- Register 4 (R14). -/
  srcOff : Reg
  /-- Register 5 (R14). -/
  srcLen : Reg
  /-- Register 6 (R14). -/
  dstCap : Reg
  /-- Register 7 (R15). -/
  dstLen : Reg
  /-- Register 8 (R15). -/
  srcUsed : Reg
  /-- Register 9 (R14). -/
  arg0 : Reg
  /-- Register 10 (R14). -/
  arg1 : Reg
  /-- Register 11 (R15). -/
  tabInfo : Reg
  /-- IN (R20). -/
  inMem : Memory
  /-- OUT (R21). -/
  outMem : Memory
  /-- SIT (R22). -/
  sit : Mem Word
  /-- WIN (R23). -/
  win : Memory
  /-- TAB1 (R25). -/
  tab1 : List Tab1Pair
  /-- TAB2 (R26). -/
  tab2 : List Tab2Entry
  /-- The engine and the running command's working state (R29, R30). -/
  engine : Engine
  /-- Whether the host has read STATUS with DONE = 1 since the last command start, or no command has started since
  reset: the engine then no longer owns the memories and the registers (R47, R48). -/
  doneSeen : Bool
  /-- The host's pending accesses, next first (the model's own field, log 6). -/
  host : List HostEvent
  /-- The values the host's reads returned, oldest first (R312; the model's own field, log 6). -/
  reads : List Reg
  /-- How many resets there have been: the unspecified contents of IN, OUT and SIT are those of the last one (the
  model's own field, log 2). -/
  resets : Nat
  /-- How many command starts there have been: the unspecified contents of OUT are those of the last one (the model's
  own field, log 2). -/
  starts : Nat
  deriving DecidableEq, Repr

/-- Why the machine stops. -/
inductive Fault where
  /-- Raised by a host access at an address outside the aperture it names (R20 to R22, R44): there is no such
  cell. Safe: the model stops where the platform decides (log 10). -/
  | hostOutsideAperture
  deriving DecidableEq, Repr

/-- Why the machine gives no meaning. -/
inductive Refusal where
  /-- An instruction with no meaning in the model, by its mnemonic. Raised by arms of `exec` only. Safe. -/
  | notModelled (mnemonic : String)
  /-- Raised by the start of a command whose input region holds a byte nothing has written since reset (R303: "a
  model should *refuse* to run it"). Safe. -/
  | unwrittenInput
  /-- Raised by VLC_BUILD and by the VLC token DEEP when they read a SIT cell nothing has written since reset
  (R303). Safe. -/
  | unwrittenSit
  /-- Raised by a token's meaning in a state whose engine is not running the command that fetches that token, or
  whose dictionary or tables do not read its bits as that token; no step of the machine meets it (log 14). Safe. -/
  | tokenNotFetchable
  deriving DecidableEq, Repr

/-- The outcome of one instruction or step. -/
abbrev Out := Host.Outcome State Fault Refusal

/-- The machine after reset (R300): every register 0, the engine idle, no memory cell holding a value. -/
def State.reset : State where
  cmd := 0
  status := 0
  errcode := 0
  errpos := 0
  srcOff := 0
  srcLen := 0
  dstCap := 0
  dstLen := 0
  srcUsed := 0
  arg0 := 0
  arg1 := 0
  tabInfo := 0
  inMem := []
  outMem := []
  sit := []
  win := []
  tab1 := []
  tab2 := []
  engine := .idle
  doneSeen := true
  host := []
  reads := []
  resets := 0
  starts := 0

end Sys2Proof.Machine
end

