-- ==== Sys2Proof/Machine/Flags.lean ====
section
/-! DEFINITION. The block's flags: the five bits of STATUS (R12), which are its only condition codes, and the fields
of TAB_INFO (R15). -/

namespace Sys2Proof.Machine

/-- STATUS.BUSY. -/
def statusBusy : Reg := 1
/-- STATUS.DONE. -/
def statusDone : Reg := 2
/-- STATUS.ERR. -/
def statusErr : Reg := 4
/-- STATUS.SOFT_END. -/
def statusSoftEnd : Reg := 8
/-- STATUS.LIMIT. -/
def statusLimit : Reg := 16

/-- STATUS.BUSY of a state. -/
def busy (s : State) : Bool := s.status.getLsbD 0

/-- Whether the host owns the memories and the operand registers (R47): while the block is not busy and the host has
read STATUS with DONE = 1 since the last command start, or none has started since reset (log 8). -/
def hostOwns (s : State) : Bool := !busy s && s.doneSeen

/-- STATUS.DONE of a state. -/
def doneBit (s : State) : Bool := s.status.getLsbD 1

/-- STATUS.ERR of a state. -/
def errBit (s : State) : Bool := s.status.getLsbD 2

/-- STATUS after a normal end with `flags`, a subset of SOFT_END and LIMIT (R104). -/
def statusFinished (flags : Reg) : Reg := statusDone ||| flags

/-- STATUS after a fault (R280). -/
def statusFaulted : Reg := statusDone ||| statusErr

/-- TAB_INFO of valid tables with `cnt` pairs built for `s` saved indexes (R15, R233). -/
def tabInfoWord (cnt s : Nat) : Reg := BitVec.ofNat _ (1 + cnt * 2 + s * 0x4000)

/-- TAB_INFO.TAB_VALID. -/
def tabValid (s : State) : Bool := s.tabInfo.getLsbD 0

/-- TAB_INFO.TAB_CNT, bits 13:1. -/
def tabCnt (s : State) : Nat := s.tabInfo.toNat / 2 % 0x2000

/-- TAB_INFO.TAB_S, bits 27:14. -/
def tabS (s : State) : Nat := s.tabInfo.toNat / 0x4000 % 0x4000

end Sys2Proof.Machine
end

