-- ==== Sys2Proof/Machine/Ops.lean ====
section
/-! DEFINITION. The named operations over memories and registers that every command shares: the stores by address;
command start (R100, R101); `emit` (R105); taking a fault (R280) and the normal end (R104). -/

namespace Sys2Proof.Machine

/-! ## Stores by address -/

/-- The value at an address, if anything has written it. -/
def Mem.read {α : Type} : Mem α → Nat → Option α
  | [], _ => none
  | (k, x) :: m, a => if a = k then some x else Mem.read m a

/-- Writes one cell, keeping addresses strictly rising. -/
def Mem.write {α : Type} : Mem α → Nat → α → Mem α
  | [], a, v => [(a, v)]
  | (k, x) :: m, a, v =>
      if a < k then (a, v) :: (k, x) :: m
      else if a = k then (a, v) :: m
      else (k, x) :: Mem.write m a v

/-- Writes consecutive cells from `a` upward. -/
def Mem.writeAll {α : Type} (m : Mem α) (a : Nat) : List α → Mem α
  | [] => m
  | v :: vs => Mem.writeAll (Mem.write m a v) (a + 1) vs

/-- The canonical form: addresses strictly rising. -/
abbrev Mem.wf {α : Type} (m : Mem α) : Prop := m.Pairwise fun x y => x.1 < y.1

/-- The canonical form of a byte store. -/
abbrev Memory.wf (m : Memory) : Prop := Mem.wf m

/-! ## Byte order (R40) -/

/-- The low `n` bytes of a bit pattern, bits 7:0 first (`MemWrite`, R7). -/
def lowBytes {w : Nat} (n : Nat) (v : BitVec w) : List Byte :=
  (List.range n).map fun k => v.extractLsb' (8 * k) 8

/-- The bytes of a word. -/
def leBytes (v : Word) : List Byte := lowBytes Config.wordBytes v

/-- The little-endian number of a byte sequence, the lowest address first (`MemRead`, R7). -/
def leValue : List Byte → Nat
  | [] => 0
  | b :: bs => b.toNat + 256 * leValue bs

/-! ## The engine -/

/-- Whether a command is running. -/
def running (s : State) : Bool :=
  match s.engine with
  | .idle => false
  | .run _ _ => true

/-- Puts the running command's working state. -/
def State.setRun (s : State) (l : Latch) (w : Work) : State := { s with engine := .run l w }

/-- Puts the host's pending accesses. -/
def State.setHost (s : State) (h : List HostEvent) : State := { s with host := h }

/-- Puts WIN. -/
def State.setWin (s : State) (m : Memory) : State := { s with win := m }

/-- Puts OUT. -/
def State.setOut (s : State) (m : Memory) : State := { s with outMem := m }

/-- Puts TAB1. -/
def State.setTab1 (s : State) (t : List Tab1Pair) : State := { s with tab1 := t }

/-- `TAB_INFO <- 0`: the VLC tables are dead (R106, R231, R233). -/
def State.clearTab (s : State) : State := { s with tabInfo := 0 }

/-- The operands a command latches (R101). -/
def latchOf (s : State) : Latch where
  off := s.srcOff.toNat
  n := s.srcLen.toNat
  cap := s.dstCap.toNat
  a0 := s.arg0.toNat
  a1 := s.arg1.toNat

/-- `end = off + n`, the first address past the input region (R101). -/
def regionEnd (l : Latch) : Nat := l.off + l.n

/-- Command start: CMD holds the value written (R100) and the status and result registers are cleared (R101). The
results are the engine's until the host has read DONE (R47). -/
def State.begin (s : State) (c : Reg) : State :=
  { s with
    cmd := c
    status := statusBusy
    errcode := 0
    errpos := 0
    dstLen := 0
    srcUsed := 0
    doneSeen := false
    starts := s.starts + 1 }

/-! ## Taking a fault, and the normal end -/

/-- The code of a fault (R270). -/
def BlockFault.code : BlockFault → Nat
  | .truncatedInput => 1
  | .invalidHeader => 2
  | .unsupportedBlockType => 3
  | .sizeMismatch => 4
  | .invalidPalette => 5
  | .unexpectedEndOfStream => 6
  | .illegalCommand => 16
  | .badParameter => 17
  | .outputOverflow => 18
  | .lzssBadDistance => 19
  | .lzwBadCode => 20
  | .rleNoPrevious => 21
  | .vlcBadTable => 22
  | .vlcNoTable => 23
  | .vlcZeroLengthCode => 24
  | .arithmeticOverflow => 25

/-- `raise f(pos)` (R280): ERRCODE, ERRPOS and STATUS are written and the command stops, its working state dead
(R29). Nothing else changes. There is no return from a fault (R282): the next command start clears it. -/
def raise (f : BlockFault) (pos : Nat) (s : State) : State :=
  { s with
    errcode := BitVec.ofNat _ f.code
    errpos := BitVec.ofNat _ pos
    status := statusFaulted
    engine := .idle }

/-- `SRC_USED <- used; finish(flags)` (R104). -/
def finish (flags : Reg) (used : Nat) (s : State) : State :=
  { s with
    srcUsed := BitVec.ofNat _ used
    status := statusFinished flags
    engine := .idle }

/-! ## Output -/

/-- `OUT[DST_LEN] <- b; DST_LEN <- DST_LEN + 1`. -/
def State.putOut (s : State) (b : Byte) : State :=
  { s with
    outMem := Mem.write s.outMem s.dstLen.toNat b
    dstLen := s.dstLen + BitVec.ofNat _ 1 }

/-- `emit(b)` with capacity `cap` at input position `ip` (R105): the state that goes on, or the one a fault ended. -/
def emit (cap ip : Nat) (b : Byte) (s : State) : Except State State :=
  if s.dstLen.toNat = cap then .error (raise .outputOverflow ip s)
  else .ok (s.putOut b)

/-- Emits bytes in order, up to the first fault. -/
def emitAll (cap ip : Nat) : List Byte → State → Except State State
  | [], s => .ok s
  | b :: bs, s =>
      match emit cap ip b s with
      | .error e => .error e
      | .ok t => emitAll cap ip bs t

/-- Goes on after output, or leaves the state a fault ended: both are next states. -/
def afterEmit (r : Except State State) (k : State → Out) : Out :=
  match r with
  | .error e => .next e
  | .ok t => k t

end Sys2Proof.Machine
end

