-- ==== Sys2Proof/Machine/Operands.lean ====
section
/-! DEFINITION. The operand forms: the register file by number (R10), the latched operands (R14, R101), the bytes
and bit fields of the input region (R7, R40, R41, R109, R232), and the checks on them (R45, R102, R303). -/

namespace Sys2Proof.Machine

/-! ## Register file (R10) -/

/-- What a host read of register `r` finds in it; a number above 11 reads 0. -/
def regValue (s : State) (r : Nat) : Reg :=
  match r with
  | 0 => s.cmd
  | 1 => s.status
  | 2 => s.errcode
  | 3 => s.errpos
  | 4 => s.srcOff
  | 5 => s.srcLen
  | 6 => s.dstCap
  | 7 => s.dstLen
  | 8 => s.srcUsed
  | 9 => s.arg0
  | 10 => s.arg1
  | 11 => s.tabInfo
  | _ => 0

/-- A host write of an operand register: the five RW registers other than CMD take the value, the RO registers and
the numbers above 11 are unaffected. CMD is not here: a write of it starts a command (R100). -/
def writeOperand (s : State) (r : Nat) (v : Reg) : State :=
  match r with
  | 4 => { s with srcOff := v }
  | 5 => { s with srcLen := v }
  | 6 => { s with dstCap := v }
  | 9 => { s with arg0 := v }
  | 10 => { s with arg1 := v }
  | _ => s

/-! ## Bounds (R45)

The guaranteed part of a capacity is tested first, so that evaluating a small bound needs no value of the open
constant; `fitsIn_iff` and `fitsOut_iff` (Laws) say that nothing else is tested. -/

/-- `x <= IN_CAP`. -/
def fitsIn (x : Nat) : Bool := decide (x ≤ Config.capFloor) || decide (x ≤ Config.inCap)

/-- `x <= OUT_CAP`. -/
def fitsOut (x : Nat) : Bool := decide (x ≤ Config.capFloor) || decide (x ≤ Config.outCap)

/-! ## The input region -/

/-- `IN[a]`, an unspecified byte where the host has written none since reset (R20, R300; log 2). A command starts only
when its region is written (R303), so one that started never reads such a byte. -/
def inByte (s : State) (a : Nat) : Byte := (Mem.read s.inMem a).getD (Config.unspecIn s.resets a)

/-- `n` bytes of IN from address `a`. -/
def inBytes (s : State) (a n : Nat) : List Byte := (List.range n).map fun k => inByte s (a + k)

/-- The region's bytes `d[0 .. n-1]`. -/
def regionBytes (s : State) (l : Latch) : List Byte := inBytes s l.off l.n

/-- `8 * SRC_LEN`. -/
def regionBits (l : Latch) : Nat := 8 * l.n

/-- `bit(k)` of the region (R41, R232). -/
def inBit (s : State) (l : Latch) (k : Nat) : Bool := (inByte s (l.off + k / 8)).getLsbD (k % 8)

/-- The `m` bits of the region from bit `k`, in stream order. -/
def inBitList (s : State) (l : Latch) (k m : Nat) : List Bool :=
  (List.range m).map fun i => inBit s l (k + i)

/-- `field(k, m)` (R232). -/
def inField (s : State) (l : Latch) (k m : Nat) : Nat := bitsToNat (inBitList s l k m)

/-- The word at IN address `a` (R7, R40). -/
def inWord (s : State) (a : Nat) : Word := BitVec.ofNat _ (leValue (inBytes s a Config.wordBytes))

/-- `ip = SRC_OFF + floor(p / 8)` (R16). -/
def bitIp (l : Latch) (p : Nat) : Nat := l.off + p / 8

/-- `ceil(p / 8)`. -/
def bytesOfBits (p : Nat) : Nat := (p + 7) / 8

/-- Whether the host has written every byte of the region (R303). -/
def regionWritten (s : State) (l : Latch) : Bool :=
  (List.range l.n).all fun k => (Mem.read s.inMem (l.off + k)).isSome

/-- Goes on if the region is written, else refuses (R303). -/
def requireInput (s : State) (l : Latch) (k : Out) : Out :=
  if regionWritten s l then k else .refused .unwrittenInput

/-! ## Operands -/

/-- `max_code_width = sext_8(ARG0[7:0])` (R14, R161). -/
def codeWidthOperand (l : Latch) : Int := (BitVec.ofNat 8 l.a0).toInt

/-- The common operand check of R102. -/
def operandsFit (l : Latch) : Bool := fitsIn (l.off + l.n) && fitsOut l.cap

end Sys2Proof.Machine
end

