-- ==== Sys2Proof/Machine/Command.lean ====
section
/-! DEFINITION. The command frame (R100 to R103) and CLEAR (R106). -/

namespace Sys2Proof.Machine

/-- A write of command value `c` to CMD: ignored while BUSY = 1 (R11, R100), else the start (R101) and then the
command's own rule, in a state with the command begun. -/
def startCommand (c : Reg) (s : State) (k : State → Out) : Out :=
  if busy s then .next s else k (s.begin c)

/-- The common operand check (R102), then the family's rule on the latched operands. -/
def checkOperands (t : State) (k : Latch → State → Out) : Out :=
  if operandsFit (latchOf t) then k (latchOf t) t else .next (raise .badParameter 0 t)

/-- The start of every legal command but CLEAR and VLC_BUILD: the frame, then the common operand check, then the
family's rule. -/
def startFamily (c : Reg) (s : State) (k : Latch → State → Out) : Out :=
  startCommand c s fun t => checkOperands t k

/-- A write to CMD of a value that is no command (R61, R103). -/
def illegalCommand (c : Reg) (s : State) : Out :=
  startCommand c s fun t => .next (raise .illegalCommand 0 t)

/-- CLEAR (R106): `TAB_INFO <- 0; finish({})`. It reads no operand and cannot fault. -/
def execClear (s : State) : Out :=
  startCommand (commandWord 0x0F) s fun t => .next (finish 0 0 t.clearTab)

end Sys2Proof.Machine
end

