-- ==== Sys2Proof/Machine/Rle.lean ====
section
/-! DEFINITION. The RLE codec (43_rle.md): RLE_DEC with its tokens BYTE, ESC, RUN, and RLE_ENC. -/

namespace Sys2Proof.Machine

/-- What the engine does in one turn of its own: it runs a token it has fetched, in the state its fetch left, or it
does something that is no instruction, with the outcome given. -/
inductive Turn where
  | instr (i : Instr) (s : State)
  | own (o : Out)

/-! ## RLE_DEC -/

/-- RLE_DEC (R191): its start; the tokens follow, one a step. -/
def execRleDec (s : State) : Out :=
  startFamily (commandWord 0x05) s fun l t =>
    requireInput t l (.next (t.setRun l (.rleDec { ip := l.off, last := none })))

/-- Runs a token of RLE_DEC if that is the running command (log 14). -/
def withRleDec (s : State) (k : Latch → RleDecWork → Out) : Out :=
  match s.engine with
  | .run l (.rleDec w) => k l w
  | _ => .refused .tokenNotFetchable

/-- `Out(b)` repeated over bytes (R190): each is emitted, `last` becomes the final one. -/
def rleOut (bs : List Byte) (last : Byte) (l : Latch) (w : RleDecWork) (s : State) : Out :=
  afterEmit (emitAll l.cap w.ip bs s) fun t => .next (t.setRun l (.rleDec { w with last := some last }))

/-- How many further copies RUN `n` makes (R195, RLE_COUNT_IS_TOTAL). -/
def rleCopies (n : Nat) : Nat := if Config.rleCountIsTotal then n - 1 else n

/-- Token BYTE (R192). -/
def execRleByte (b : Byte) (s : State) : Out :=
  withRleDec s fun l w => rleOut [b] b l w s

/-- Token ESC (R193). -/
def execRleEsc (s : State) : Out :=
  withRleDec s fun l w => rleOut [Config.rleCtl] Config.rleCtl l w s

/-- Token RUN (R195). -/
def execRleRun (n : Nat) (s : State) : Out :=
  withRleDec s fun l w =>
    match w.last with
    | none => .next (raise .rleNoPrevious w.ip s)
    | some b => rleOut (List.replicate (rleCopies n) b) b l w s

/-- RLE_DEC's turn (R191): at the end of the region it finishes, a control byte there has no count (R194), else it
fetches a token and moves `ip` past it. -/
def rleDecTurn (l : Latch) (w : RleDecWork) (s : State) : Turn :=
  if regionEnd l ≤ w.ip then .own (.next (finish 0 l.n s))
  else
    let bs := inBytes s w.ip (min 2 (regionEnd l - w.ip))
    match decodeRle bs with
    | .error _ => .own (.next (raise .truncatedInput (regionEnd l) s))
    | .ok (i, rest) =>
        .instr i (s.setRun l (.rleDec { w with ip := w.ip + (bs.length - rest.length) }))

/-! ## RLE_ENC -/

/-- RLE_ENC (R196): its start; the groups follow, one a step. -/
def execRleEnc (s : State) : Out :=
  startFamily (commandWord 0x06) s fun l t =>
    requireInput t l (.next (t.setRun l (.rleEnc { i := 0 })))

/-- R197: how many bytes at the head of `d` equal its first, at most `limit`. -/
def rleRunLength (b : Byte) (limit : Nat) (d : List Byte) : Nat :=
  ((d.take limit).takeWhile fun x => x == b).length

/-- R196, R198: the literal or escape that opens a group. -/
def rleLiteral (b : Byte) : List Byte := if b = Config.rleCtl then [Config.rleCtl, 0] else [b]

/-- The count byte of a run of `r` bytes in all: the mirror of `rleCopies` (R196, RLE_COUNT_IS_TOTAL). -/
def rleCount (r : Nat) : Nat := if Config.rleCountIsTotal then r else r - 1

/-- R196 to R198: the bytes RLE_ENC emits at the head of `d` and how many input bytes they stand for. -/
def rleGroup (d : List Byte) : List Byte × Nat :=
  match d with
  | [] => ([], 0)
  | b :: _ =>
      let r := rleRunLength b Config.rleMaxRun d
      if Config.rleMinRun ≤ r then (rleLiteral b ++ [Config.rleCtl, BitVec.ofNat 8 (rleCount r)], r)
      else (rleLiteral b, 1)

/-- RLE_ENC's turn: the next group, or the end. -/
def rleEncTurn (l : Latch) (w : RleEncWork) (s : State) : Out :=
  if w.i < l.n then
    let g := rleGroup ((regionBytes s l).drop w.i)
    afterEmit (emitAll l.cap (l.off + w.i) g.1 s) fun t =>
      .next (t.setRun l (.rleEnc { i := w.i + g.2 }))
  else .next (finish 0 l.n s)

end Sys2Proof.Machine
end

