-- ==== Sys2Proof/Machine/Lzss.lean ====
section
/-! DEFINITION. The LZSS codec (41_lzss.md): LZSS_DEC with its tokens LIT, SREF, LREF, XREF, SEG, END, the bit
reader and the sliding window; LZSS_ENC with its bit writer and match search. -/

namespace Sys2Proof.Machine

/-! ## The bit stream reader (R120 to R123) -/

/-- `Refill()` (R121). -/
def lzssRefill (s : State) (l : Latch) (w : LzssDecWork) : LzssDecWork :=
  if w.ip + Config.lzssCtlBytes ≤ regionEnd l then
    { w with
      bitbuf := BitVec.ofNat _ (leValue (inBytes s w.ip Config.lzssCtlBytes))
      ip := w.ip + Config.lzssCtlBytes
      bitcnt := Config.lzssCtlw }
  else { w with bitcnt := 0 }

/-- The reader when a control bit is wanted: a lazy reader would refill here (D11), the eager one has. -/
def lzssReady (s : State) (l : Latch) (w : LzssDecWork) : LzssDecWork :=
  if Config.lzssEagerRefill then w else if w.bitcnt = 0 then lzssRefill s l w else w

/-- `GetBit()` (R122): the eager reader refills as the 16th bit is taken. -/
def lzssGetBit (s : State) (l : Latch) (w : LzssDecWork) : Bool × LzssDecWork :=
  let w' := { w with bitbuf := w.bitbuf >>> 1, bitcnt := w.bitcnt - 1 }
  (w.bitbuf.getLsbD 0,
    if Config.lzssEagerRefill then if w'.bitcnt = 0 then lzssRefill s l w' else w' else w')

/-- What fetching a token gives: the token with the reader past it, or exhaustion inside the token with the input
position then (R125). -/
inductive LzssFetch where
  | token (i : Instr) (w : LzssDecWork)
  | exhausted (ip : Nat)
  deriving DecidableEq, Repr

/-- Takes units from the stream until they make a token (R62, R70). No token has more than five units, so fuel 6
never runs out. -/
def lzssFetchFrom (s : State) (l : Latch) : Nat → List LzssUnit → LzssDecWork → LzssFetch
  | 0, _, w => .exhausted w.ip
  | fuel + 1, got, w =>
      match lzssWant got with
      | .token i => .token i w
      | .bad => .exhausted w.ip
      | .bit =>
          let r := lzssReady s l w
          if r.bitcnt = 0 then .exhausted r.ip
          else
            let b := lzssGetBit s l r
            lzssFetchFrom s l fuel (got ++ [.bit b.1]) b.2
      | .byte =>
          if regionEnd l ≤ w.ip then .exhausted w.ip
          else
            lzssFetchFrom s l fuel (got ++ [.byte (inByte s w.ip)]) { w with ip := w.ip + 1 }

/-- Fetches one token. -/
def lzssFetch (s : State) (l : Latch) (w : LzssDecWork) : LzssFetch := lzssFetchFrom s l 6 [] w

/-! ## The window (R132 to R136) -/

/-- `WIN[a]` (R23). -/
def winByte (m : Memory) (a : Nat) : Byte := (Mem.read m a).getD (Config.unspecByte a)

/-- The bytes `WIN[a .. a+n-1]`. -/
def winBytes (m : Memory) (a n : Nat) : List Byte := (List.range n).map fun k => winByte m (a + k)

/-- The byte-by-byte copy of R132: each read comes after the previous write. -/
def winCopy (dist : Nat) : Nat → Nat → Memory → Memory
  | 0, _, m => m
  | len + 1, wp, m => winCopy dist len (wp + 1) (Mem.write m wp (winByte m (wp - dist)))

/-- `WIN[k] <- WIN[k + amount]` for `k` from `k0`, `n` times in ascending order (R134). -/
def winShift (amount : Nat) : Nat → Nat → Memory → Memory
  | 0, _, m => m
  | n + 1, k, m => winShift amount n (k + 1) (Mem.write m k (winByte m (k + amount)))

/-- `SlideIfNeeded()`, after every token that does not end the command (R134), and then the next step. -/
def lzssSlide (l : Latch) (w : LzssDecWork) (s : State) : Out :=
  if Config.winFlush < w.wp then
    afterEmit (emitAll l.cap w.ip (winBytes s.win 0 Config.winSlide) s) fun t =>
      .next ((t.setWin (winShift Config.winSlide (w.wp - Config.winSlide) 0 t.win)).setRun l
        (.lzssDec { w with wp := w.wp - Config.winSlide, total := w.total + Config.winSlide }))
  else .next (s.setRun l (.lzssDec w))

/-- `FlushAll(); SRC_USED <- ip - SRC_OFF; finish(flags)` (R136, R125, R131). -/
def lzssEnd (flags : Reg) (l : Latch) (w : LzssDecWork) (s : State) : Out :=
  afterEmit (emitAll l.cap w.ip (winBytes s.win 0 w.wp) s) fun t =>
    .next (finish flags (w.ip - l.off) t)

/-- `Copy(len, dist)` (R132) with the distance check (R133), and the token's end. -/
def lzssCopy (len dist : Nat) (l : Latch) (w : LzssDecWork) (s : State) : Out :=
  if w.total + w.wp < dist then .next (raise .lzssBadDistance w.ip s)
  else
    lzssSlide l { w with wp := w.wp + len } (s.setWin (winCopy dist len w.wp s.win))

/-! ## LZSS_DEC -/

/-- LZSS_DEC (R124): its start, with the first control word loaded (R120); the tokens follow, one a step. What
`bitbuf` holds where the region has no control word the spec does not say, and nothing reads it: a free value
(log 22). -/
def execLzssDec (s : State) : Out :=
  startFamily (commandWord 0x01) s fun l t =>
    requireInput t l (.next (t.setRun l (.lzssDec
      (lzssRefill t l
        { ip := l.off, bitbuf := Config.unspecBitbuf t.starts, bitcnt := 0, wp := 0, total := 0 }))))

/-- Runs a token of LZSS_DEC if that is the running command (log 14). -/
def withLzssDec (s : State) (k : Latch → LzssDecWork → Out) : Out :=
  match s.engine with
  | .run l (.lzssDec w) => k l w
  | _ => .refused .tokenNotFetchable

/-- Token LIT (R126). -/
def execLzssLit (v : Byte) (s : State) : Out :=
  withLzssDec s fun l w =>
    lzssSlide l { w with wp := w.wp + 1 } (s.setWin (Mem.write s.win w.wp v))

/-- Token SREF (R127). -/
def execLzssSref (len dist : Nat) (s : State) : Out :=
  withLzssDec s fun l w => lzssCopy len dist l w s

/-- Token LREF (R128). -/
def execLzssLref (len dist : Nat) (s : State) : Out :=
  withLzssDec s fun l w => lzssCopy len dist l w s

/-- Token XREF (R129). -/
def execLzssXref (len dist : Nat) (s : State) : Out :=
  withLzssDec s fun l w => lzssCopy len dist l w s

/-- Token SEG (R130): nothing, its descriptor bits unused and unchecked. -/
def execLzssSeg (_off13 : Nat) (s : State) : Out :=
  withLzssDec s fun l w => lzssSlide l w s

/-- Token END (R131): its descriptor bits unused and unchecked. -/
def execLzssEnd (_off13 : Nat) (s : State) : Out :=
  withLzssDec s fun l w => lzssEnd 0 l w s

/-- LZSS_DEC's turn (R124): with the bit source exhausted between tokens it ends softly (R125), else it fetches a
token. -/
def lzssDecTurn (l : Latch) (w : LzssDecWork) (s : State) : Turn :=
  let r := lzssReady s l w
  if r.bitcnt = 0 then .own (lzssEnd statusSoftEnd l r s)
  else
    match lzssFetch s l w with
    | .exhausted ip => .own (.next (raise .unexpectedEndOfStream ip s))
    | .token i w' => .instr i (s.setRun l (.lzssDec w'))

/-! ## The bit stream writer (R145 to R147) -/

/-- Fills the reserved control word: `MemWrite(OUT, slot, 2, cw)` (R146, R147). -/
def lzssFillSlot (w : LzssEncWork) (s : State) : State :=
  s.setOut (Mem.writeAll s.outMem w.slot (lowBytes Config.lzssCtlBytes w.cw))

/-- Reserves the next control word at the end of the output. -/
def lzssReserve (l : Latch) (w : LzssEncWork) (s : State) : Except State (State × LzssEncWork) :=
  match emitAll l.cap (l.off + w.pos) (List.replicate Config.lzssCtlBytes 0) s with
  | .error e => .error e
  | .ok t => .ok (t, { w with slot := s.dstLen.toNat, cw := 0, cc := 0 })

/-- A full control word is filled in and the next one reserved (R146). -/
def lzssRoll (l : Latch) (w : LzssEncWork) (s : State) : Except State (State × LzssEncWork) :=
  if w.cc = Config.lzssCtlw then lzssReserve l w (lzssFillSlot w s) else .ok (s, w)

/-- Puts one unit of a token: `PutBit` (R146), rolling the control word at the 16th bit (a lazy writer, D11, would
roll at the 17th), or `PutByte` (R147). -/
def lzssPut (l : Latch) (u : LzssUnit) (w : LzssEncWork) (s : State) : Except State (State × LzssEncWork) :=
  match u with
  | .byte v =>
      match emit l.cap (l.off + w.pos) v s with
      | .error e => .error e
      | .ok t => .ok (t, w)
  | .bit b =>
      match if Config.lzssEagerRefill then .ok (s, w) else lzssRoll l w s with
      | .error e => .error e
      | .ok (t, w1) =>
          let w2 := { w1 with cw := w1.cw ||| (BitVec.ofNat _ b.toNat <<< w1.cc), cc := w1.cc + 1 }
          if Config.lzssEagerRefill then lzssRoll l w2 t else .ok (t, w2)

/-- Puts the units of a token in consumption order. -/
def lzssPutAll (l : Latch) : List LzssUnit → LzssEncWork → State → Except State (State × LzssEncWork)
  | [], w, s => .ok (s, w)
  | u :: us, w, s =>
      match lzssPut l u w s with
      | .error e => .error e
      | .ok (t, w') => lzssPutAll l us w' t

/-! ## The match search (R149, R150) -/

/-- How long two byte strings agree. -/
def commonLength : List Byte → List Byte → Nat
  | x :: xs, y :: ys => if x = y then commonLength xs ys + 1 else 0
  | [], _ => 0
  | _, [] => 0

/-- The length of the match at `pos` against distance `dist`, at most `maxlen`; it may run past `pos`. -/
def matchLength (d : List Byte) (pos dist maxlen : Nat) : Nat :=
  commonLength ((d.drop pos).take maxlen) (d.drop (pos - dist))

/-- Tries the distances `dist0`, `dist0 + 1`, ... (`k` of them), a strictly longer match replacing the best. -/
def searchFrom (d : List Byte) (pos maxlen : Nat) : Nat → Nat → Nat × Nat → Nat × Nat
  | 0, _, best => best
  | k + 1, dist, best =>
      let len := matchLength d pos dist maxlen
      searchFrom d pos maxlen k (dist + 1) (if best.1 < len then (len, dist) else best)

/-- `BestMatch(pos)` (R149): length and distance, `(0, 0)` where nothing matches. -/
def bestMatch (d : List Byte) (pos : Nat) : Nat × Nat :=
  searchFrom d pos (min Config.lzssMaxLen (d.length - pos)) (min Config.lzssLookback pos) 1 (0, 0)

/-- The token for the best match at `pos`, whose literal byte is `v` (R150). -/
def lzssChoose (v : Byte) (m : Nat × Nat) : Instr :=
  if m.1 < 2 ∨ (m.1 = 2 ∧ Config.lzssShortMaxDist ≤ m.2) then .lzssLit v
  else if m.1 ≤ 5 ∧ m.2 ≤ Config.lzssShortMaxDist then .lzssSref m.1 m.2
  else if m.1 ≤ 9 then .lzssLref m.1 m.2
  else .lzssXref m.1 m.2

/-- How many input bytes that token stands for (R151, R152). -/
def lzssAdvance (m : Nat × Nat) : Nat :=
  if m.1 < 2 ∨ (m.1 = 2 ∧ Config.lzssShortMaxDist ≤ m.2) then 1 else m.1

/-! ## LZSS_ENC -/

/-- LZSS_ENC (R148): its start, with the first control word reserved (R145); the tokens follow, one a step. -/
def execLzssEnc (s : State) : Out :=
  startFamily (commandWord 0x02) s fun l t =>
    requireInput t l
      (match lzssReserve l { pos := 0, cw := 0, cc := 0, slot := 0 } t with
      | .error e => .next e
      | .ok (u, w) => .next (u.setRun l (.lzssEnc w)))

/-- The padding bytes that bring a length to a multiple of LZSS_PAD (R153). -/
def lzssPadding (len : Nat) : List Byte :=
  List.replicate ((Config.lzssPad - len % Config.lzssPad) % Config.lzssPad) 0

/-- LZSS_ENC's turn (R148): one token, or the END token, the final control word and the padding (R147, R153). -/
def lzssEncTurn (l : Latch) (w : LzssEncWork) (s : State) : Out :=
  if w.pos < l.n then
    let d := regionBytes s l
    let m := bestMatch d w.pos
    match lzssPutAll l (encode (lzssChoose (inByte s (l.off + w.pos)) m)).lzssUnits w s with
    | .error e => .next e
    | .ok (t, w') => .next (t.setRun l (.lzssEnc { w' with pos := w.pos + lzssAdvance m }))
  else
    match lzssPutAll l (encode (.lzssEnd 0)).lzssUnits w s with
    | .error e => .next e
    | .ok (t, w') =>
        let u := lzssFillSlot w' t
        afterEmit (emitAll l.cap (l.off + w.pos) (lzssPadding u.dstLen.toNat) u) fun v =>
          .next (finish 0 l.n v)

end Sys2Proof.Machine
end

