-- ==== Sys2Proof/Machine/Lzw.lean ====
section
/-! DEFINITION. The LZW codec (42_lzw.md): LZW_DEC with its code classes BYTE, CLR, ENTRY, KWK, and LZW_ENC. -/

namespace Sys2Proof.Machine

/-! ## Shared definitions (R160 to R164) -/

/-- `max_code_width`, legal only from 9 to 12 (R161). -/
def lzwMaxWidth? (l : Latch) : Option Nat :=
  if (Config.lzwMinBits : Int) ≤ codeWidthOperand l ∧ codeWidthOperand l ≤ (Config.lzwMaxLimit : Int) then
    some (codeWidthOperand l).toNat
  else none

/-- `next`, the next free code, of a dictionary with `n` assigned strings (R160). -/
def lzwNext (n : Nat) : Nat := Config.lzwFirst + n

/-- The width for a dictionary size (R163, R164; LZW_EARLY_CHANGE of D23). -/
def lzwWiden (size w maxW : Nat) : Nat :=
  if (if Config.lzwEarlyChange then 2 ^ w ≤ size else 2 ^ w < size) ∧ w < maxW then w + 1 else w

/-- `str(c)` of a code that is BYTE or ENTRY (R160). -/
def lzwString (dict : List (List Byte)) (c : Nat) : Option (List Byte) :=
  if c < 256 then some [BitVec.ofNat 8 c]
  else if c < Config.lzwFirst then none
  else dict[c - Config.lzwFirst]?

/-! ## LZW_DEC -/

/-- LZW_DEC (R165): its start; the codes follow, one a step. -/
def execLzwDec (s : State) : Out :=
  startFamily (commandWord 0x03) s fun l t =>
    match lzwMaxWidth? l with
    | none => .next (raise .badParameter 0 t)
    | some m =>
        requireInput t l (.next (t.setRun l (.lzwDec
          { p := 0, w := Config.lzwMinBits, maxW := m, dict := [], prev := none })))

/-- Runs a code of LZW_DEC if that is the running command (log 14). -/
def withLzwDec (s : State) (k : Latch → LzwDecWork → Out) : Out :=
  match s.engine with
  | .run l (.lzwDec w) => k l w
  | _ => .refused .tokenNotFetchable

/-- What the decoder classifies a code by. -/
def lzwCtxOf (w : LzwDecWork) : LzwCtx where
  next := lzwNext w.dict.length
  maxW := w.maxW
  havePrev := w.prev.isSome

/-- The dictionary after the string `e` has been output (R165, R170). -/
def lzwLearn (w : LzwDecWork) (e : List Byte) : List (List Byte) :=
  match w.prev with
  | none => w.dict
  | some pc =>
      if lzwNext w.dict.length < 2 ^ w.maxW then
        match lzwString w.dict pc with
        | some ps => w.dict ++ [ps ++ e.take 1]
        | none => w.dict
      else w.dict

/-- The end of a code `c` whose string is `e`: it is emitted, an entry is assigned, `prev <- c` (R165). -/
def lzwOutput (e : List Byte) (c : Nat) (l : Latch) (w : LzwDecWork) (s : State) : Out :=
  afterEmit (emitAll l.cap (bitIp l w.p) e s) fun t =>
    .next (t.setRun l (.lzwDec { w with dict := lzwLearn w e, prev := some c }))

/-- Code BYTE (R166). -/
def execLzwByte (b : Byte) (s : State) : Out :=
  withLzwDec s fun l w => lzwOutput [b] b.toNat l w s

/-- Code CLR (R167): `InitDict(); prev <- none`. -/
def execLzwClr (s : State) : Out :=
  withLzwDec s fun l w =>
    .next (s.setRun l (.lzwDec { w with w := Config.lzwMinBits, dict := [], prev := none }))

/-- Code ENTRY (R166). -/
def execLzwEntry (k : Nat) (s : State) : Out :=
  withLzwDec s fun l w =>
    if Config.lzwFirst ≤ k then
      match lzwString w.dict k with
      | some e => lzwOutput e k l w s
      | none => .refused .tokenNotFetchable
    else .refused .tokenNotFetchable

/-- Code KWK (R168): the previous string and its own first byte. -/
def execLzwKwk (k : Nat) (s : State) : Out :=
  withLzwDec s fun l w =>
    if k = lzwNext w.dict.length ∧ k < 2 ^ w.maxW then
      match w.prev.bind (lzwString w.dict) with
      | some ps => lzwOutput (ps ++ ps.take 1) k l w s
      | none => .refused .tokenNotFetchable
    else .refused .tokenNotFetchable

/-- The decoder's width test before a code (R164): the size is the encoder's `next`. -/
def lzwDecWidth (w : LzwDecWork) : Nat :=
  lzwWiden (if w.prev.isNone then lzwNext w.dict.length else lzwNext w.dict.length + 1) w.w w.maxW

/-- LZW_DEC's turn (R165): fewer bits than the width end it (R171), else one code is read and classified; one that
names nothing is a fault (R169). -/
def lzwDecTurn (l : Latch) (w : LzwDecWork) (s : State) : Turn :=
  let wd := lzwDecWidth w
  if regionBits l < w.p + wd then .own (.next (finish 0 (bytesOfBits w.p) s))
  else
    match decodeLzw (lzwCtxOf w) (inField s l w.p wd) with
    | .error _ => .own (.next (raise .lzwBadCode (bitIp l (w.p + wd - 1)) s))
    | .ok i => .instr i (s.setRun l (.lzwDec { w with p := w.p + wd, w := wd }))

/-! ## LZW_ENC -/

/-- LZW_ENC (R172): its start; the input bytes follow, one a step. -/
def execLzwEnc (s : State) : Out :=
  startFamily (commandWord 0x04) s fun l t =>
    match lzwMaxWidth? l with
    | none => .next (raise .badParameter 0 t)
    | some m =>
        requireInput t l (.next (t.setRun l (.lzwEnc
          { i := 0, w := Config.lzwMinBits, maxW := m, dict := [], pre := none, acc := [] })))

/-- The whole bytes of a bit string, and the bits left (R162). -/
def packBytes : List Bool → List Byte × List Bool
  | b0 :: b1 :: b2 :: b3 :: b4 :: b5 :: b6 :: b7 :: rest =>
      let r := packBytes rest
      (BitVec.ofNat 8 (bitsToNat [b0, b1, b2, b3, b4, b5, b6, b7]) :: r.1, r.2)
  | short => ([], short)

/-- `WriteCode(c, w)` (R162) for several codes at width `w`: the whole bytes to emit, and the bits left. -/
def lzwPack (acc : List Bool) (w : Nat) (codes : List Nat) : List Byte × List Bool :=
  packBytes (acc ++ codes.flatMap fun c => natToBits c w)

/-- The code of (prefix, byte), if assigned (R172). -/
def lzwFind? (dict : List (Nat × Byte)) (pc : Nat) (c : Byte) : Option Nat :=
  (dict.findIdx? fun x => decide (x = (pc, c))).map lzwNext

/-- One input byte `c` of LZW_ENC (R172, R173): the bytes it completes, and the working state after it. -/
def lzwEncByte (w : LzwEncWork) (c : Byte) : List Byte × LzwEncWork :=
  match w.pre with
  | none => ([], { w with i := w.i + 1, pre := some c.toNat })
  | some pc =>
      match lzwFind? w.dict pc c with
      | some k => ([], { w with i := w.i + 1, pre := some k })
      | none =>
          if lzwNext w.dict.length < 2 ^ w.maxW then
            let r := lzwPack w.acc w.w [pc]
            (r.1, { w with
              i := w.i + 1
              dict := w.dict ++ [(pc, c)]
              w := lzwWiden (lzwNext w.dict.length + 1) w.w w.maxW
              pre := some c.toNat
              acc := r.2 })
          else
            let r := lzwPack w.acc w.w [pc, Config.lzwClear]
            (r.1, { w with
              i := w.i + 1
              dict := []
              w := Config.lzwMinBits
              pre := some c.toNat
              acc := r.2 })

/-- The last byte, completed with zero bits in its high positions (R174). -/
def lzwPadByte (acc : List Bool) : List Byte :=
  if acc.isEmpty then [] else [BitVec.ofNat 8 (bitsToNat acc)]

/-- The bytes that end the stream: the pending code, then the padded last byte (R172, R174). -/
def lzwEncTail (w : LzwEncWork) : List Byte :=
  let r := lzwPack w.acc w.w w.pre.toList
  r.1 ++ lzwPadByte r.2

/-- LZW_ENC's turn: the next input byte, or the end. -/
def lzwEncTurn (l : Latch) (w : LzwEncWork) (s : State) : Out :=
  if w.i < l.n then
    let r := lzwEncByte w (inByte s (l.off + w.i))
    afterEmit (emitAll l.cap (l.off + w.i) r.1 s) fun t => .next (t.setRun l (.lzwEnc r.2))
  else
    afterEmit (emitAll l.cap (l.off + w.i) (lzwEncTail w) s) fun t => .next (finish 0 l.n t)

end Sys2Proof.Machine
end

