-- ==== Sys2Proof/Machine/Wavelet.lean ====
section
/-! DEFINITION. The integer wavelet inverse transform WAVELET_INV (44_wavelet.md). Cells are words read as
signed; sums and differences are formed exactly, in Int, and narrowed at the end (R111, R216). -/

namespace Sys2Proof.Machine

/-- Cell `i` of a coefficient array. A started command has loaded every cell it reads (R212). -/
def wavCell (c : List Word) (i : Nat) : Int := (c.getD i (Config.unspecWord i)).toInt

/-- R211: `N*N <= WAV_MAX` and `N = T0 * 2^k` for some `k`, which is then below `N`. -/
def wavSizesOk (t0 n : Nat) : Bool :=
  decide (1 ≤ t0 ∧ t0 ≤ n ∧ n * n ≤ Config.wavMax) && (List.range n).any fun k => t0 * 2 ^ k == n

/-- WAVELET_INV (R211): its checks in their order, and the load (R212); the passes follow. -/
def execWaveletInv (s : State) : Out :=
  startFamily (commandWord 0x07) s fun l t =>
    if wavSizesOk l.a0 l.a1 = false then .next (raise .badParameter 0 t)
    else if l.n ≠ Config.wordBytes * (l.a1 * l.a1) then .next (raise .sizeMismatch 0 t)
    else if l.cap < Config.wordBytes * (l.a1 * l.a1) then .next (raise .outputOverflow l.off t)
    else
      requireInput t l (.next (t.setRun l (.wavelet
        { size := l.a1
          t := l.a0
          coef := (List.range (l.a1 * l.a1)).map fun i => inWord t (l.off + Config.wordBytes * i)
          y := none })))

/-- R214: the value at row `r`, column `c` of the horizontal pass with tile size `t` on an array `size` wide. -/
def wavHorizontal (coef : List Word) (size t r c : Nat) : Int :=
  let lo := wavCell coef (r * size + c / 2)
  let hi := wavCell coef (r * size + (t + c / 2))
  if c % 2 = 0 then lo + hi else lo - hi

/-- Whether a value fits a signed cell (R216). -/
def fitsCell (v : Int) : Bool := decide (-2 ^ (Config.wordW - 1) ≤ v ∧ v < 2 ^ (Config.wordW - 1))

/-- The horizontal pass on the top-left `2t` by `2t` block (R214), or nothing where a result does not fit (R216). -/
def wavHorizontalPass (coef : List Word) (size t : Nat) : Option (List Word) :=
  let ys := (List.range (2 * t * (2 * t))).map fun i => wavHorizontal coef size t (i / (2 * t)) (i % (2 * t))
  if ys.all fitsCell then some (ys.map (BitVec.ofInt _)) else none

/-- R215: the value at row `r`, column `c` of the vertical pass; `/ 2` on Int rounds toward minus infinity. -/
def wavVertical (y : List Word) (t r c : Nat) : Int :=
  let lo := wavCell y (r / 2 * (2 * t) + c)
  let hi := wavCell y ((t + r / 2) * (2 * t) + c)
  if r % 2 = 0 then (lo + hi) / 2 else (lo - hi) / 2

/-- The vertical pass: it overwrites the block and leaves the other cells (R213, R215). -/
def wavVerticalPass (coef y : List Word) (size t : Nat) : List Word :=
  coef.mapIdx fun i x =>
    if i / size < 2 * t ∧ i % size < 2 * t then BitVec.ofInt _ (wavVertical y t (i / size) (i % size)) else x

/-- The store of the result (R217): capacity was checked at the start. -/
def wavStore (w : WaveletWork) (s : State) : Out :=
  .next (finish 0 (Config.wordBytes * (w.size * w.size))
    { s with
      outMem := Mem.writeAll s.outMem 0 (w.coef.flatMap leBytes)
      dstLen := BitVec.ofNat _ (Config.wordBytes * (w.size * w.size)) })

/-- WAVELET_INV's turn (R213): a horizontal pass, the vertical pass after it, or the store. -/
def waveletTurn (l : Latch) (w : WaveletWork) (s : State) : Out :=
  match w.y with
  | some y =>
      .next (s.setRun l (.wavelet
        { w with coef := wavVerticalPass w.coef y w.size w.t, t := 2 * w.t, y := none }))
  | none =>
      if w.t < w.size then
        match wavHorizontalPass w.coef w.size w.t with
        | none => .next (raise .arithmeticOverflow 0 s)
        | some y => .next (s.setRun l (.wavelet { w with y := some y }))
      else wavStore w s

end Sys2Proof.Machine
end

