-- ==== Sys2Proof/Machine/Vlc.lean ====
section
/-! DEFINITION. The VLC codec (45_vlc.md): the table builder VLC_BUILD, and VLC_DECODE with its tokens TERM, ZRUN,
DEEP. -/

namespace Sys2Proof.Machine

/-! ## The tables -/

/-- The tables of a state (R230): TAB1, TAB2 and TAB_S. -/
def tablesOf (s : State) : VlcTables where
  tab1 := s.tab1
  tab2 := s.tab2
  s := tabS s

/-- R236: every child index names a terminal or an existing pair. -/
def vlcChildrenOk (tab1 : List Tab1Pair) (s : Nat) : Bool :=
  tab1.all fun pr => decide (pr.left < s + tab1.length ∧ pr.right < s + tab1.length)

/-- The entry a walk of at most 8 bits ends in (R237, R238); `none` where it reads a SIT cell nothing has
written. -/
def vlcEntryAt (sit : Mem Word) (node : VlcNode) (depth : Nat) : Option Tab2Entry :=
  match node with
  | .leaf idx =>
      if idx = 0 then some { kind := .zerorun, val := 0, len := depth }
      else (Mem.read sit idx).map fun v => { kind := .terminal, val := v, len := depth }
  | .inner i => some { kind := .deferred, val := BitVec.ofNat _ i, len := Config.vlcLook }

/-- TAB2 entry `v` (R237). -/
def vlcEntryFor (t : VlcTables) (sit : Mem Word) (v : Nat) : Option Tab2Entry :=
  match vlcDescend t (vlcRoot t) (natToBits v Config.vlcLook) with
  | none => none
  | some (node, depth) => vlcEntryAt sit node depth

/-- The entries for the values `v`, all of them or none. -/
def vlcEntries (t : VlcTables) (sit : Mem Word) : List Nat → Option (List Tab2Entry)
  | [] => some []
  | v :: vs =>
      match vlcEntryFor t sit v, vlcEntries t sit vs with
      | some e, some es => some (e :: es)
      | _, _ => none

/-- TAB2 derived from TAB1 and SIT (R237). -/
def vlcDeriveTab2 (tab1 : List Tab1Pair) (s : Nat) (sit : Mem Word) : Option (List Tab2Entry) :=
  vlcEntries { tab1 := tab1, tab2 := [], s := s } sit (List.range Config.tab2Size)

/-! ## VLC_BUILD -/

/-- The dictionary's length in bits (R76). -/
def vlcDictBits (cnt : Nat) : Nat := Config.vlcField + 2 * Config.vlcField * cnt

/-- VLC_BUILD (R233): the old tables die, the operands are checked (R102), S is checked (R235), the count is read and
the dictionary's length checked (R234); the pairs follow, one a step. The tables die before the common check, since
every fault of VLC_BUILD leaves TAB_VALID = 0 (R233, R280; log 23). -/
def execVlcBuild (s : State) : Out :=
  startCommand (commandWord 0x08) s fun t0 => checkOperands t0.clearTab fun l t =>
    if l.a0 < 1 ∨ Config.sitCap < l.a0 then .next (raise .badParameter 0 t)
    else if regionBits l < Config.vlcField then .next (raise .truncatedInput (regionEnd l) t)
    else
      requireInput t l
        (let cnt := inField t l 0 Config.vlcField
        if regionBits l < vlcDictBits cnt then .next (raise .truncatedInput (regionEnd l) t)
        else
          .next ((t.setTab1 []).setRun l (.vlcBuild
            { p := Config.vlcField, cnt := cnt, s := l.a0 })))

/-- The end of VLC_BUILD (R233): validation (R236), TAB2 (R237), TAB_INFO, SRC_USED. -/
def vlcBuildEnd (w : VlcBuildWork) (s : State) : Out :=
  if vlcChildrenOk s.tab1 w.s = false then .next (raise .vlcBadTable 0 s)
  else
    match vlcDeriveTab2 s.tab1 w.s s.sit with
    | none => .refused .unwrittenSit
    | some tab2 =>
        .next (finish 0 (bytesOfBits (vlcDictBits w.cnt))
          { s with tab2 := tab2, tabInfo := tabInfoWord w.cnt w.s })

/-- VLC_BUILD's turn: the next pair (R234), or the end. -/
def vlcBuildTurn (l : Latch) (w : VlcBuildWork) (s : State) : Out :=
  if s.tab1.length < w.cnt then
    .next ((s.setTab1 (s.tab1 ++
        [{ left := inField s l w.p Config.vlcField,
           right := inField s l (w.p + Config.vlcField) Config.vlcField }])).setRun l
      (.vlcBuild { w with p := w.p + 2 * Config.vlcField }))
  else vlcBuildEnd w s

/-! ## VLC_DECODE -/

/-- VLC_DECODE (R241): its start; the tokens follow, one a step. -/
def execVlcDecode (s : State) : Out :=
  startFamily (commandWord 0x09) s fun l t =>
    if tabValid t = false then .next (raise .vlcNoTable 0 t)
    else requireInput t l (.next (t.setRun l (.vlcDecode { p := 0, words := 0 })))

/-- Runs a token of VLC_DECODE if that is the running command and the tables read its bits as that token
(log 14). -/
def withVlcDecode (i : Instr) (s : State) (k : Latch → VlcDecodeWork → Out) : Out :=
  match s.engine with
  | .run l (.vlcDecode w) =>
      if i.fits { lzw := { next := 0, maxW := 0, havePrev := false }, vlc := tablesOf s } then k l w
      else .refused .tokenNotFetchable
  | _ => .refused .tokenNotFetchable

/-- Emits one word and advances the bit cursor (R243, R245): while it is emitted the cursor is still at the token's
first bit. -/
def vlcWord (v : Word) (len : Nat) (l : Latch) (w : VlcDecodeWork) (s : State) : Out :=
  afterEmit (emitAll l.cap (bitIp l w.p) (leBytes v) s) fun t =>
    .next (t.setRun l (.vlcDecode { p := w.p + len, words := w.words + 1 }))

/-- Token TERM (R243); with no path bit at all it is a zero-length code (R247). -/
def execVlcTerm (path : List Bool) (s : State) : Out :=
  withVlcDecode (.vlcTerm path) s fun l w =>
    match vlcEntry (tablesOf s) path with
    | none => .refused .tokenNotFetchable
    | some e =>
        if e.len = 0 then .next (raise .vlcZeroLengthCode (bitIp l w.p) s)
        else vlcWord e.val path.length l w s

/-- The run a ZRUN emits: cut short where it would pass the word limit (R244, R248). -/
def vlcCutRun (l : Latch) (words run : Nat) : Nat :=
  if l.a1 ≠ 0 ∧ l.a1 < words + run then l.a1 - words else run

/-- Token ZRUN (R244): the cursor moves first, then the zero words are emitted. -/
def execVlcZrun (path : List Bool) (run : Nat) (s : State) : Out :=
  withVlcDecode (.vlcZrun path run) s fun l w =>
    let p := w.p + path.length + Config.vlcZrunBits path.length
    let r := vlcCutRun l w.words run
    afterEmit (emitAll l.cap (bitIp l p) (List.replicate (Config.wordBytes * r) 0) s) fun t =>
      .next (t.setRun l (.vlcDecode { p := p, words := w.words + r }))

/-- The SIT index a DEEP path ends on (R245). -/
def vlcDeepIndex (t : VlcTables) (path : List Bool) : Option Nat :=
  match vlcEntry t path with
  | none => none
  | some e =>
      match vlcDescend t (.inner e.val.toNat) (path.drop Config.vlcLook) with
      | some (.leaf idx, _) => some idx
      | some (.inner _, _) => none
      | none => none

/-- Token DEEP (R245): SIT is read now, index 0 included. -/
def execVlcDeep (path : List Bool) (s : State) : Out :=
  withVlcDecode (.vlcDeep path) s fun l w =>
    match vlcDeepIndex (tablesOf s) path with
    | none => .refused .tokenNotFetchable
    | some idx =>
        match Mem.read s.sit idx with
        | none => .refused .unwrittenSit
        | some v => vlcWord v path.length l w s

/-- `stop(flags)` (R241). -/
def vlcStop (flags : Reg) (w : VlcDecodeWork) (s : State) : Out :=
  .next (finish flags (bytesOfBits w.p) s)

/-- VLC_DECODE's turn (R241): the word limit (R248), the end of the chunk (R246), or one token; the token moves the
cursor itself. -/
def vlcDecodeTurn (l : Latch) (w : VlcDecodeWork) (s : State) : Turn :=
  if l.a1 ≠ 0 ∧ l.a1 ≤ w.words then .own (vlcStop statusLimit w s)
  else if regionBits l ≤ w.p then .own (vlcStop 0 w s)
  else
    match decodeVlc (tablesOf s) (inBitList s l w.p (regionBits l - w.p)) with
    | .ok (i, _) => .instr i s
    | .error .noTable => .own (.refused .tokenNotFetchable)
    | .error _ => .own (vlcStop 0 w s)

end Sys2Proof.Machine
end

