-- ==== Sys2Proof/Machine/Turn.lean ====
section
/-! DEFINITION. Who moves next and what it does (R30): the engine's turn by running command, the host's turn by
access (R10, R11, R47, R231), and the choice between them (log 6). Last, how an instruction is placed to run next. -/

namespace Sys2Proof.Machine

/-! ## The engine -/

/-- The turn of a running command. -/
def engineTurn (l : Latch) (w : Work) (s : State) : Turn :=
  match w with
  | .lzssDec w => lzssDecTurn l w s
  | .lzssEnc w => .own (lzssEncTurn l w s)
  | .lzwDec w => lzwDecTurn l w s
  | .lzwEnc w => .own (lzwEncTurn l w s)
  | .rleDec w => rleDecTurn l w s
  | .rleEnc w => .own (rleEncTurn l w s)
  | .wavelet w => .own (waveletTurn l w s)
  | .vlcBuild w => .own (vlcBuildTurn l w s)
  | .vlcDecode w => vlcDecodeTurn l w s

/-! ## The host -/

/-- A read returns a value; it changes nothing else (R43). -/
def State.pushRead (s : State) (v : Reg) : State := { s with reads := s.reads ++ [v] }

/-- A read returns an unspecified value (R47, U2; log 2). -/
def State.pushFree (s : State) : State := s.pushRead (Config.unspecRead s.reads.length)

/-- A byte as the value a read returns. -/
def byteReg (b : Byte) : Reg := b.setWidth _

/-- `SIT[a]`, an unspecified word where the host has written none since reset (R22, R300; log 2). -/
def sitWord (s : State) (a : Nat) : Word := (Mem.read s.sit a).getD (Config.unspecSit s.resets a)

/-- `OUT[a]`, an unspecified byte at and above DST_LEN (R21, U1; log 2). -/
def outByte (s : State) (a : Nat) : Byte :=
  if s.dstLen.toNat ≤ a then Config.unspecOut s.resets s.starts a
  else (Mem.read s.outMem a).getD (Config.unspecOut s.resets s.starts a)

/-- A host register read (R10, R47): DST_LEN and SRC_USED are unspecified until the host has seen DONE; the read of
STATUS that returns DONE = 1 hands the results over (R48). -/
def hostReadReg (r : Nat) (s : State) : State :=
  if (r = 7 ∨ r = 8) ∧ s.doneSeen = false then s.pushFree
  else if r = 1 then { s.pushRead s.status with doneSeen := s.doneSeen || doneBit s }
  else s.pushRead (regValue s r)

/-- A host read of OUT (R21, R47): unspecified until the host has seen DONE. -/
def hostReadOut (a : Nat) (s : State) : State :=
  s.pushRead (byteReg (if s.doneSeen then outByte s a else (Config.unspecRead s.reads.length).setWidth 8))

/-- A host write of SIT: it kills the tables (R22, R231). -/
def hostWriteSit (a : Nat) (v : Word) (s : State) : State :=
  { s.clearTab with sit := Mem.write s.sit a v }

/-- Reset (R300): every register 0, the engine idle, no memory cell holding a value; what is outside the block, the
host's pending accesses and what it has read, is not reset (log 18); the unspecified contents are new ones. -/
def hostReset (s : State) : State :=
  { State.reset with host := s.host, reads := s.reads, resets := s.resets + 1, starts := s.starts }

/-- An access at an address of an aperture, or the stop where there is no such cell (log 10). -/
def inAperture (there : Bool) (t : State) : Turn :=
  if there then .own (.next t) else .own (.fault .hostOutsideAperture)

/-- A host register write: a write of CMD starts the command it names (R100), or faults (R103); any other stores its
value where the register is an operand (R14). -/
def hostWriteReg (r : Nat) (v : Reg) (s : State) : Turn :=
  if r = 0 then
    match decodeCommand v with
    | .ok i => .instr i s
    | .error _ => .own (illegalCommand v s)
  else .own (.next (writeOperand s r v))

/-- One host access. Every write, of CMD too, is ignored while the engine owns the block (R47, R307; log 8). -/
def hostTurn (op : HostOp) (s : State) : Turn :=
  match op with
  | .writeReg r v => if hostOwns s then hostWriteReg r v s else .own (.next s)
  | .readReg r => .own (.next (hostReadReg r s))
  | .writeIn a v =>
      inAperture (fitsIn (a + 1)) (if hostOwns s then { s with inMem := Mem.write s.inMem a v } else s)
  | .readIn a => inAperture (fitsIn (a + 1)) (s.pushRead (byteReg (inByte s a)))
  | .readOut a => inAperture (fitsOut (a + 1)) (hostReadOut a s)
  | .writeSit a v =>
      inAperture (decide (a < Config.sitCap)) (if hostOwns s then hostWriteSit a v s else s)
  | .readSit a => inAperture (decide (a < Config.sitCap)) (s.pushRead ((sitWord s a).setWidth _))
  | .reset => .own (.next (hostReset s))

/-! ## Who moves -/

/-- The engine's turn; an idle engine does nothing (R301, R312). -/
def engineStep (s : State) : Turn :=
  match s.engine with
  | .idle => .own (.next s)
  | .run l w => engineTurn l w s

/-- The turn of a state: the host's next access when the engine is idle or the access's delay is over, else the
engine's (log 6). -/
def turn (s : State) : Turn :=
  match s.host with
  | [] => engineStep s
  | e :: rest =>
      if running s = true ∧ e.delay ≠ 0 then
        engineStep (s.setHost ({ e with delay := e.delay - 1 } :: rest))
      else hostTurn e.op (s.setHost rest)

/-! ## Placing an instruction -/

/-- The pending accesses with the next one held back by one engine step. -/
def holdHost : List HostEvent → List HostEvent
  | [] => []
  | e :: rest => { e with delay := e.delay + 1 } :: rest

/-- A write of `c` to CMD as the host's very next access, by a host that has seen the last command's end (R47). -/
def placeCommand (s : State) (c : Reg) : State :=
  { s with host := { delay := 0, op := .writeReg 0 c } :: s.host, doneSeen := s.doneSeen || !busy s }

/-- RLE_DEC running on a region that holds exactly the bytes `bs`, at their first byte: they are stored at SRC_OFF,
SRC_LEN is their number, and the host is held back one step. -/
def placeRle (s : State) (bs : List Byte) : State :=
  let t := { s with
    srcLen := BitVec.ofNat _ bs.length
    inMem := Mem.writeAll s.inMem s.srcOff.toNat bs
    host := holdHost s.host }
  (t.begin (commandWord 0x05)).setRun (latchOf t) (.rleDec { ip := s.srcOff.toNat, last := none })

/-- Places the instruction of a table word (log 11): a 32-bit word is a command, 16 and 8 bits are RLE tokens. -/
def placeWord (s : State) (nbits w : Nat) : State :=
  if nbits = 16 then placeRle s (tableRleBytes w)
  else if nbits = 8 then placeRle s [BitVec.ofNat 8 w]
  else placeCommand s (BitVec.ofNat _ w)

end Sys2Proof.Machine
end

