-- ==== Sys2Proof/Machine/Dispatch.lean ====
section
/-! DEFINITION. One arm per instruction: the command frames and the tokens of 30_encoding.md, in the opcode table's
order. -/

namespace Sys2Proof.Machine

def exec (i : Instr) (s : State) : Host.Outcome State Fault Refusal :=
  match i with
  -- commands (R60)
  | .lzssDec => Sys2Proof.Machine.execLzssDec s
  | .lzssEnc => Sys2Proof.Machine.execLzssEnc s
  | .lzwDec => Sys2Proof.Machine.execLzwDec s
  | .lzwEnc => Sys2Proof.Machine.execLzwEnc s
  | .rleDec => Sys2Proof.Machine.execRleDec s
  | .rleEnc => Sys2Proof.Machine.execRleEnc s
  | .waveletInv => Sys2Proof.Machine.execWaveletInv s
  | .vlcBuild => Sys2Proof.Machine.execVlcBuild s
  | .vlcDecode => Sys2Proof.Machine.execVlcDecode s
  | .clear => Sys2Proof.Machine.execClear s
  -- LZSS tokens (R70)
  | .lzssLit v => Sys2Proof.Machine.execLzssLit v s
  | .lzssSref len dist => Sys2Proof.Machine.execLzssSref len dist s
  | .lzssLref len dist => Sys2Proof.Machine.execLzssLref len dist s
  | .lzssXref len dist => Sys2Proof.Machine.execLzssXref len dist s
  | .lzssSeg off13 => Sys2Proof.Machine.execLzssSeg off13 s
  | .lzssEnd off13 => Sys2Proof.Machine.execLzssEnd off13 s
  -- LZW codes (R73)
  | .lzwByte b => Sys2Proof.Machine.execLzwByte b s
  | .lzwClr => Sys2Proof.Machine.execLzwClr s
  | .lzwEntry k => Sys2Proof.Machine.execLzwEntry k s
  | .lzwKwk k => Sys2Proof.Machine.execLzwKwk k s
  -- RLE tokens (R74)
  | .rleByte b => Sys2Proof.Machine.execRleByte b s
  | .rleEsc => Sys2Proof.Machine.execRleEsc s
  | .rleRun n => Sys2Proof.Machine.execRleRun n s
  -- VLC codes (R78)
  | .vlcTerm path => Sys2Proof.Machine.execVlcTerm path s
  | .vlcZrun path run => Sys2Proof.Machine.execVlcZrun path run s
  | .vlcDeep path => Sys2Proof.Machine.execVlcDeep path s

end Sys2Proof.Machine
end

