-- ==== Sys2Proof/Machine/Step.lean ====
section
/-! DEFINITION. One step of the machine: the turn of the agent that moves, a fetched or written instruction run by
`exec`. -/

namespace Sys2Proof.Machine

/-- Runs a turn: an instruction by `exec`, anything else as it is. -/
def runTurn : Turn → Out
  | .instr i t => exec i t
  | .own o => o

/-- One step (R30). -/
def step (s : State) : Host.Outcome State Fault Refusal := runTurn (turn s)

/-- `s` with the instruction of a table word placed to run next: a command as the host's next access, an RLE token
as the whole input of a running RLE_DEC (log 6, log 11). -/
def State.withFetchWord (s : State) (nbits w : Nat) : State := placeWord s nbits w

end Sys2Proof.Machine
end

