-- ==== Sys2Proof/Safety.lean ====
section
/-! DEFINITION. What a legal state of the machine is: the invariants that hold at reset and that every step keeps,
and how many engine steps a running command still takes at most. Claims are stated in these terms. -/

namespace Sys2Proof.Machine

/-! ## Memory -/

/-- Every store is in canonical form. -/
def MemOk (s : State) : Prop :=
  Mem.wf s.inMem ∧ Mem.wf s.outMem ∧ Mem.wf s.sit ∧ Mem.wf s.win

/-! ## Status, faults, latched operands -/

/-- STATUS between commands (R12): idle since reset, or DONE alone, with ERR, with SOFT_END or with LIMIT. -/
def idleStatuses : List Word := [0b00000, 0b00010, 0b00110, 0b01010, 0b10010]

/-- The codes ERRCODE can hold after a fault (R270, R272). -/
def raisedCodes : List Nat := [1, 4, 6, 16, 17, 18, 19, 20, 21, 22, 23, 24, 25]

/-- What the register file says of the engine (R12, R101, R102, R303, R45). -/
def EngineCtlOk (s : State) : Engine → Prop
  | .idle => s.status ∈ idleStatuses
  | .run l _ =>
      s.status = 0b00001 ∧ s.doneSeen = false ∧ l = latchOf s ∧
      l.off + l.n ≤ Config.inCap ∧ l.cap ≤ Config.outCap ∧
      (∀ k < l.n, (Mem.read s.inMem (l.off + k)).isSome = true) ∧ s.dstLen.toNat ≤ l.cap

/-- The control invariant: STATUS agrees with the engine, the latched operands are the registers, the region was
checked and is written, and ERRCODE and ERRPOS are 0 unless ERR is set (R12, R13, R101, R102). -/
def CtlOk (s : State) : Prop :=
  EngineCtlOk s s.engine ∧
    (if s.status = 0b00110 then s.errcode.toNat ∈ raisedCodes else s.errcode = 0 ∧ s.errpos = 0)

/-! ## The VLC tables -/

/-- Tables a VLC_BUILD has completed (R233 to R237): S in range, every child existing, TAB2 derived from TAB1 and
SIT. -/
def TablesBuilt (t : VlcTables) (sit : Mem Word) : Prop :=
  1 ≤ t.s ∧ t.s ≤ 8192 ∧ t.tab1.length ≤ 8191 ∧
    (∀ pr ∈ t.tab1, pr.left < t.s + t.tab1.length ∧ pr.right < t.s + t.tab1.length) ∧
    vlcDeriveTab2 t.tab1 t.s sit = some t.tab2

/-- The table invariant (R15, R230, R231, R233): while TAB_VALID is set the tables are those of one completed
VLC_BUILD on the SIT that still stands, and TAB_CNT counts them; else TAB_INFO is 0; no build runs while it is set
and no decode while it is not. -/
structure TabOk (s : State) : Prop where
  valid : tabValid s = true → TablesBuilt (tablesOf s) s.sit ∧ tabCnt s = s.tab1.length
  invalid : tabValid s = false → s.tabInfo = 0
  busy : running s = true → busy s = true
  building : ∀ l w, s.engine = .run l (.vlcBuild w) →
    tabValid s = false ∧ s.tab1.length ≤ w.cnt ∧ w.cnt ≤ 8191 ∧ 1 ≤ w.s ∧ w.s ≤ 8192
  decoding : ∀ l w, s.engine = .run l (.vlcDecode w) → tabValid s = true

/-! ## Working state, family by family -/

/-- LZSS_DEC (R28, R123, R134, R135): the window holds every byte below `wp`, `wp` is at most 0x4000 between
tokens, more than 0x2000 bytes of history remain after a slide, and DST_LEN counts the bytes flushed. -/
structure LzssDecOk (s : State) (l : Latch) (w : LzssDecWork) : Prop where
  wp_le : w.wp ≤ 0x4000
  written : ∀ a < w.wp, (Mem.read s.win a).isSome = true
  total_eq : w.total = s.dstLen.toNat
  history : w.total = 0 ∨ 0x2000 < w.wp
  bitcnt_le : w.bitcnt ≤ 16
  ip_ge : l.off ≤ w.ip
  ip_le : w.ip ≤ l.off + l.n
  cap_lt : l.cap < 2 ^ 32
  len_le : s.dstLen.toNat ≤ l.cap

/-- The LZSS_DEC invariant; WIN has no cell beyond its 0x4500 bytes (R23). -/
def LzssDecInv (s : State) : Prop :=
  (∀ c ∈ s.win, c.1 < Config.winSize) ∧ ∀ l w, s.engine = .run l (.lzssDec w) → LzssDecOk s l w

/-- LZSS_ENC (R145, R146): fewer than 16 bits are held, and the reserved control word lies below DST_LEN. -/
structure LzssEncOk (s : State) (l : Latch) (w : LzssEncWork) : Prop where
  cc_lt : w.cc < 16
  slot_le : w.slot + 2 ≤ s.dstLen.toNat
  pos_le : w.pos ≤ l.n
  cap_lt : l.cap < 2 ^ 32
  len_le : s.dstLen.toNat ≤ l.cap

/-- The LZSS_ENC invariant. -/
def LzssEncInv (s : State) : Prop :=
  ∀ l w, s.engine = .run l (.lzssEnc w) → LzssEncOk s l w

/-- LZW_DEC (R24, R160 to R171): widths in range, the dictionary within its 2^M codes, its strings not empty, and
the previous code one that has a string. -/
structure LzwDecOk (l : Latch) (w : LzwDecWork) : Prop where
  w_ge : 9 ≤ w.w
  w_le : w.w ≤ w.maxW
  max_le : w.maxW ≤ 12
  next_le : lzwNext w.dict.length ≤ 2 ^ w.maxW
  strings : ∀ e ∈ w.dict, e ≠ []
  noPrev : w.prev = none → w.dict = []
  prev_str : ∀ c, w.prev = some c → (lzwString w.dict c).isSome = true
  p_le : w.p ≤ 8 * l.n

/-- LZW_ENC (R24, R160, R163, R172): every assigned code fits the current width, so the pending one does. -/
structure LzwEncOk (l : Latch) (w : LzwEncWork) : Prop where
  w_ge : 9 ≤ w.w
  w_le : w.w ≤ w.maxW
  max_le : w.maxW ≤ 12
  next_le : lzwNext w.dict.length ≤ 2 ^ w.w
  pre_lt : ∀ c, w.pre = some c → c < lzwNext w.dict.length ∧ c ≠ 256
  acc_lt : w.acc.length < 8
  i_le : w.i ≤ l.n

/-- The LZW invariant. -/
def LzwInv (s : State) : Prop :=
  (∀ l w, s.engine = .run l (.lzwDec w) → LzwDecOk l w) ∧
    ∀ l w, s.engine = .run l (.lzwEnc w) → LzwEncOk l w

/-- WAVELET_INV (R210 to R213): the tile size reaches the plane's width by doublings, every cell is loaded, and the
result has room. -/
structure WaveletOk (l : Latch) (w : WaveletWork) : Prop where
  t_pos : 1 ≤ w.t
  sizes : ∃ k, w.size = w.t * 2 ^ k
  plane : w.size * w.size ≤ 0x10000
  room : 4 * (w.size * w.size) ≤ l.cap
  loaded : w.coef.length = w.size * w.size
  scratch : ∀ y, w.y = some y → y.length = 2 * w.t * (2 * w.t) ∧ w.t < w.size

/-- The WAVELET_INV invariant. -/
def WaveletInv (s : State) : Prop :=
  ∀ l w, s.engine = .run l (.wavelet w) → WaveletOk l w

/-! ## Termination (R311) -/

/-- How many more engine steps a running command takes at most (R137, R155, R176, R200, R219, R234, R252). -/
def stepsLeft (s : State) (l : Latch) : Work → Nat
  | .lzssDec w => w.bitcnt + 8 * (regionEnd l - w.ip) + 1
  | .lzssEnc w => l.n - w.pos + 1
  | .lzwDec w => (regionBits l - w.p) / 9 + 1
  | .lzwEnc w => l.n - w.i + 1
  | .rleDec w => regionEnd l - w.ip + 1
  | .rleEnc w => l.n - w.i + 1
  | .wavelet w => 2 * (w.size - w.t) + (if w.y.isSome then 0 else 1)
  | .vlcBuild w => w.cnt - s.tab1.length + 1
  | .vlcDecode w => regionBits l - w.p + 1

/-! ## What a run may end in -/

/-- The stops the spec asks for or the platform decides: an unwritten region or SIT cell (R303), a host access at
an address that does not exist. -/
def expectedStop : Out → Bool
  | .next _ => true
  | .fault .hostOutsideAperture => true
  | .refused .unwrittenInput => true
  | .refused .unwrittenSit => true
  | .refused _ => false

end Sys2Proof.Machine
end

