-- ==== Sys2Proof/Certificates/Slice0/Obligations.lean ====
section
/-! DEFINITION. The statements for the provers, and the few definitions they are written in: the output and window
contents as lists, a pure RLE codec, a pure VLC walk, and the hypotheses that recur. -/

namespace Sys2Proof.Machine

/-! ## Words the statements share -/

/-- The instruction is a command (R60), not a token. -/
def isCommand (i : Instr) : Bool :=
  match encode i with
  | .command _ => true
  | .lzss _ => false
  | .lzw _ => false
  | .rle _ => false
  | .vlc _ => false

/-- The value whose write to CMD starts the command. -/
def commandValue (i : Instr) : Reg :=
  match encode i with
  | .command c => c
  | .lzss _ => 0
  | .lzw _ => 0
  | .rle _ => 0
  | .vlc _ => 0

/-- The state with the bytes `bs` stored at OUT from DST_LEN and DST_LEN advanced past them. -/
def withOutput (s : State) (bs : List Byte) : State :=
  { s with
    outMem := Mem.writeAll s.outMem s.dstLen.toNat bs
    dstLen := s.dstLen + BitVec.ofNat 32 bs.length }

/-- There is room for `k` more bytes below the capacity the command latched. -/
def Room (s : State) (l : Latch) (k : Nat) : Prop := s.dstLen.toNat + k ≤ l.cap ∧ l.cap < 2 ^ 32

/-- What R102 and R303 ask of the operand registers of a command that is to start: the block is not busy, the region
and the capacity lie in the apertures, and the host has written the region. -/
structure ReadyToStart (s : State) : Prop where
  idle : busy s = false
  region : s.srcOff.toNat + s.srcLen.toNat ≤ Config.inCap
  capacity : s.dstCap.toNat ≤ Config.outCap
  written : ∀ k < s.srcLen.toNat, (Mem.read s.inMem (s.srcOff.toNat + k)).isSome = true

/-- `OUT[0 .. DST_LEN-1]`. -/
def outCells (s : State) : List (Option Byte) := (List.range s.dstLen.toNat).map (Mem.read s.outMem)

/-- `WIN[0 .. n-1]`. -/
def winCells (m : Memory) (n : Nat) : List (Option Byte) := (List.range n).map (Mem.read m)

/-- Everything a running LZSS_DEC has decoded: the bytes flushed, then those still in the window. -/
def lzssHistory (s : State) (w : LzssDecWork) : List (Option Byte) := outCells s ++ winCells s.win w.wp

/-- A reference on an unbounded history (R135): `len` times, the byte `dist` back from the end is appended. -/
def copyBack {α : Type} (dist : Nat) : Nat → List α → List α
  | 0, h => h
  | len + 1, h => copyBack dist len (h ++ h[h.length - dist]?.toList)

/-- The reader of LZSS_DEC yields exactly these units, in this order, and then stands at the state returned. -/
def lzssReads (s : State) (l : Latch) : List LzssUnit → LzssDecWork → Option LzssDecWork
  | [], w => some w
  | .bit b :: us, w =>
      if w.bitcnt ≠ 0 ∧ (lzssGetBit s l w).1 = b then lzssReads s l us (lzssGetBit s l w).2 else none
  | .byte v :: us, w =>
      if w.ip < l.off + l.n ∧ inByte s w.ip = v then lzssReads s l us { w with ip := w.ip + 1 } else none

/-- The end in OutputOverflow at position `pos` of an output of `bs`: the bytes that fit below the capacity are stored
(R105, R281). -/
def overflowed (l : Latch) (pos : Nat) (bs : List Byte) (s : State) : State :=
  raise .outputOverflow pos (withOutput s (bs.take (l.cap - s.dstLen.toNat)))

/-- There is room below the latched capacity for fewer than `k` more bytes. -/
def NoRoom (s : State) (l : Latch) (k : Nat) : Prop := s.dstLen.toNat ≤ l.cap ∧ l.cap < s.dstLen.toNat + k ∧ l.cap < 2 ^ 32

/-- The working state is that of the decoder whose streams hold such an encoding (R16, R70, R72, R74, R78). -/
def fetchedBy : Encoded → Work → Prop
  | .command _, _ => False
  | .lzss _, w => ∃ d, w = .lzssDec d
  | .lzw _, w => ∃ d, w = .lzwDec d
  | .rle _, w => ∃ d, w = .rleDec d
  | .vlc _, w => ∃ d, w = .vlcDecode d

/-- The checks a command makes, after the common one (R102) and before it reads its region, all pass (R161, R211,
R234, R235, R241). -/
structure OwnChecksPass (i : Instr) (s : State) : Prop where
  lzw : i ∈ [Instr.lzwDec, .lzwEnc] → 9 ≤ (s.arg0.setWidth 8).toInt ∧ (s.arg0.setWidth 8).toInt ≤ 12
  wavelet : i = .waveletInv → 1 ≤ s.arg0.toNat ∧ (∃ k, s.arg1.toNat = s.arg0.toNat * 2 ^ k) ∧
    s.arg1.toNat * s.arg1.toNat ≤ 0x10000 ∧ s.srcLen.toNat = 4 * (s.arg1.toNat * s.arg1.toNat) ∧
    s.srcLen.toNat ≤ s.dstCap.toNat
  build : i = .vlcBuild → 1 ≤ s.arg0.toNat ∧ s.arg0.toNat ≤ 8192 ∧ 13 ≤ 8 * s.srcLen.toNat
  decode : i = .vlcDecode → tabValid s = true

/-- What no engine step and no token changes (R10, R43, R47): IN, SIT, CMD, the operand registers, and everything of
the host's but its queue. -/
structure HostSideKept (s t : State) : Prop where
  inMem : t.inMem = s.inMem
  sit : t.sit = s.sit
  cmd : t.cmd = s.cmd
  srcOff : t.srcOff = s.srcOff
  srcLen : t.srcLen = s.srcLen
  dstCap : t.dstCap = s.dstCap
  arg0 : t.arg0 = s.arg0
  arg1 : t.arg1 = s.arg1
  doneSeen : t.doneSeen = s.doneSeen
  reads : t.reads = s.reads
  resets : t.resets = s.resets
  starts : t.starts = s.starts

/-- The tokens LZSS_ENC chooses for `d` from `pos` on (R148 to R150). -/
def lzssTokensFrom (d : List Byte) : Nat → Nat → List Instr
  | 0, _ => []
  | k + 1, pos =>
      if pos < d.length then
        lzssChoose (d.getD pos 0) (bestMatch d pos) :: lzssTokensFrom d k (pos + lzssAdvance (bestMatch d pos))
      else []

/-- Control word number `j` of a stream with these control bits, zero-padded, as its two bytes (R40, R147). -/
def lzssControlWord (bits : List Bool) (j : Nat) : List Byte :=
  let w := BitVec.ofNat 16 (bitsToNat ((bits.drop (16 * j)).take 16))
  [w.extractLsb' 0 8, w.extractLsb' 8 8]

/-- The stream of units `us`, `k` control bits in: each data byte in its place, and after every 16th control bit the
control word that holds the next ones (R122, R146). -/
def lzssLayoutFrom (bits : List Bool) : Nat → List LzssUnit → List Byte
  | _, [] => []
  | k, .byte v :: us => v :: lzssLayoutFrom bits k us
  | k, .bit _ :: us =>
      (if (k + 1) % 16 = 0 then lzssControlWord bits ((k + 1) / 16) else []) ++ lzssLayoutFrom bits (k + 1) us

/-- The control bits of a list of units. -/
def controlBits (us : List LzssUnit) : List Bool :=
  us.filterMap fun u => match u with | .bit b => some b | .byte _ => none

/-- LZSS_ENC on a whole byte sequence (R148 to R153): the tokens, END, the last control word, and zero bytes up to a
multiple of 16. -/
def lzssEncoded (d : List Byte) : List Byte :=
  let us := (lzssTokensFrom d d.length 0 ++ [Instr.lzssEnd 0]).flatMap fun i => (encode i).lzssUnits
  let bytes := lzssControlWord (controlBits us) 0 ++ lzssLayoutFrom (controlBits us) 0 us
  bytes ++ List.replicate ((16 - bytes.length % 16) % 16) 0

/-- How many bytes the units of a token add to the output when `cc` bits of the control word are held: its data bytes,
and the next control word where its bits fill this one (R146, R147; a token has at most four). -/
def lzssUnitBytes (cc : Nat) (us : List LzssUnit) : Nat :=
  (us.length - (controlBits us).length) + if 16 ≤ cc + (controlBits us).length then 2 else 0

/-- The bits of an LZW code of `w` bits, bit 0 first (R162). -/
def codeBits (w c : Nat) : List Bool := (List.range w).map c.testBit

/-- The bits of output bytes in stream order, each byte's bit 0 first (R41, R162). -/
def byteBits (bs : List Byte) : List Bool := bs.flatMap fun b => (List.range 8).map b.getLsbD

/-- RLE_ENC on a whole byte sequence, group by group (R196). -/
def rleEncodeFrom : Nat → List Byte → List Byte
  | 0, _ => []
  | k + 1, d => if d = [] then [] else (rleGroup d).1 ++ rleEncodeFrom k (d.drop (rleGroup d).2)

/-- RLE_DEC on a whole byte sequence, token by token (R191 to R195), the run count being the total (D26): nothing
where it faults. -/
def rleDecodeFrom : Nat → Option Byte → List Byte → Option (List Byte)
  | 0, _, _ => none
  | k + 1, last, bs =>
      if bs = [] then some []
      else
        match decodeRle bs with
        | .ok (.rleByte b, rest) => (rleDecodeFrom k (some b) rest).map (b :: ·)
        | .ok (.rleEsc, rest) => (rleDecodeFrom k (some 0x90) rest).map (0x90 :: ·)
        | .ok (.rleRun n, rest) =>
            match last with
            | none => none
            | some b => (rleDecodeFrom k last rest).map (List.replicate (n - 1) b ++ ·)
        | .ok _ => none
        | .error _ => none

/-- LZW_ENC from a working state over the input bytes left. -/
def lzwEncodeFrom (w : LzwEncWork) : List Byte → List Byte
  | [] => lzwEncTail w
  | c :: cs => (lzwEncByte w c).1 ++ lzwEncodeFrom (lzwEncByte w c).2 cs

/-- The passes of WAVELET_INV at tile sizes `t`, `2t`, ... (`k` of them), or nothing where a horizontal result does
not fit. -/
def wavePasses (size : Nat) : Nat → Nat → List Word → Option (List Word)
  | 0, _, coef => some coef
  | k + 1, t, coef =>
      (wavHorizontalPass coef size t).bind fun y => wavePasses size k (2 * t) (wavVerticalPass coef y size t)

/-- The pairs of a VLC dictionary in the input region (R76, R234). -/
def dictPairs (s : State) (l : Latch) (cnt : Nat) : List Tab1Pair :=
  (List.range cnt).map fun i =>
    { left := inField s l (13 + 26 * i) 13, right := inField s l (13 + 26 * i + 13) 13 }

/-- The decoder of R250: each token walks Tab1 from the root one bit at a time until a terminal. -/
def vlcWalkDecode (t : VlcTables) (bits : List Bool) : Except DecodeError (Instr × List Bool) :=
  match vlcDescend t (vlcRoot t) bits with
  | some (.leaf idx, d) =>
      if idx = 0 ∧ d ≤ 8 then
        if bits.length < d + 10 then .error .endOfChunk
        else .ok (.vlcZrun (bits.take d) (bitsToNat ((bits.drop d).take 10)), bits.drop (d + 10))
      else if d ≤ 8 then .ok (.vlcTerm (bits.take d), bits.drop d)
      else .ok (.vlcDeep (bits.take d), bits.drop d)
  | some (.inner _, _) => .error .endOfChunk
  | none => .error .noTable

/-- Two states of the machine that differ in WIN alone, and there only at and above a running LZSS_DEC's `wp`. -/
def SameButStaleWin (s t : State) : Prop :=
  t = s.setWin t.win ∧
    ∀ l w, s.engine = .run l (.lzssDec w) → ∀ a < w.wp, Mem.read t.win a = Mem.read s.win a

/-- Round trip of a codec on the machine: where the encoder command, started on a region, ends normally, the decoder
command started on the bytes it left in OUT, with room for the original bytes and the same ARG0, ends normally and
leaves the original bytes in OUT. -/
def RoundTrips (enc dec : Instr) : Prop :=
  ∀ (s s1 t u u1 : State) (k : Nat), ReadyToStart s → s.host = [] → exec enc s = .next s1 →
    Host.Core.run core k s1 = .next t → t.engine = .idle → t.status = 0b00010 →
    ReadyToStart u → u.host = [] → u.arg0 = s.arg0 → u.srcLen = t.dstLen →
    (∀ a < t.dstLen.toNat, Mem.read u.inMem (u.srcOff.toNat + a) = Mem.read t.outMem a) →
    s.srcLen.toNat ≤ u.dstCap.toNat → exec dec u = .next u1 →
    ∃ j v, Host.Core.run core j u1 = .next v ∧ v.engine = .idle ∧ v.status = 0b00010 ∧ v.dstLen = s.srcLen ∧
      ∀ a < s.srcLen.toNat, Mem.read v.outMem a = Mem.read s.inMem (s.srcOff.toNat + a)

end Sys2Proof.Machine

open Sys2Proof Sys2Proof.Machine

/-! ## Encodings -/

/-- R60, R63, R66, R74: a few words written out from the spec's encodings decode to what they stand for. -/
def Obligations.SampleWordsDecode : Prop :=
  decodeCommand 0x00000007 = .ok .waveletInv ∧
  decodeCommand 0x0000000F = .ok .clear ∧
  decodeCommand 0x0000000A = .error .illegalCommand ∧
  decodeLzss [.bit true, .byte 0x41] = .ok (.lzssLit 0x41, []) ∧
  decodeLzss [.bit false, .bit false, .bit false, .bit true, .byte 0xFF] = .ok (.lzssSref 3 1, []) ∧
  decodeLzss [.bit false, .bit true, .byte 0xFE, .byte 0xFC] = .ok (.lzssLref 6 2, []) ∧
  decodeRle [0x90, 0x00] = .ok (.rleEsc, []) ∧
  decodeRle [0x90, 0x90] = .ok (.rleRun 144, [])

/-- R60 to R78: decoding what was encoded gives the instruction back, for every well-formed instruction, every
operand value the encoding admits, and every dictionary and table state it fits. -/
def Obligations.DecodeEncodeAgree : Prop :=
  ∀ (ctx : DecodeCtx) (i : Instr), i.wellFormed = true → i.fits ctx = true → decode ctx (encode i) = .ok i

/-- R62, R70, R122: the machine fetches token `i` from an LZSS stream exactly if `i` is a well-formed LZSS token and
the stream's next control bits and data bytes, in consumption order, are its encoding. -/
def Obligations.LzssFetchIsDecoding : Prop :=
  ∀ (s : State) (l : Latch) (w w' : LzssDecWork) (i : Instr),
    lzssFetch s l w = .token i w' ↔
      i.wellFormed = true ∧ (encode i).lzssUnits ≠ [] ∧ lzssReads s l (encode i).lzssUnits w = some w'

/-- R73: the classes of an LZW code value `k`, the illegal one included. -/
def Obligations.LzwCodeClasses : Prop :=
  ∀ (ctx : LzwCtx) (k : Nat), 257 ≤ ctx.next →
    (k < 256 → decodeLzw ctx k = .ok (.lzwByte (BitVec.ofNat 8 k))) ∧
    (k = 256 → decodeLzw ctx k = .ok .lzwClr) ∧
    (257 ≤ k → k < ctx.next → decodeLzw ctx k = .ok (.lzwEntry k)) ∧
    (k = ctx.next → ctx.havePrev = true → ctx.next < 2 ^ ctx.maxW → decodeLzw ctx k = .ok (.lzwKwk k)) ∧
    (k = ctx.next → ctx.havePrev = false ∨ 2 ^ ctx.maxW ≤ ctx.next → decodeLzw ctx k = .error .lzwBadCode) ∧
    (ctx.next < k → decodeLzw ctx k = .error .lzwBadCode)

/-- R237, R238, R250: TAB2 is a cache of TAB1 and SIT. On tables a VLC_BUILD completed, the entry the 8-bit lookahead
selects says what the walk of Tab1 from the root finds: within eight bits, at an index other than 0, the word SIT holds
there, and at index 0 a zero run, each with the depth; past eight bits the node reached. And reading a token by the
lookahead gives what walking Tab1 bit by bit gives, the end of the chunk included. -/
def Obligations.Tab2IsACacheOfTab1 : Prop :=
  ∀ (t : VlcTables) (sit : Mem Word) (bits : List Bool), TablesBuilt t sit →
    (∀ idx d, vlcDescend t (vlcRoot t) bits = some (.leaf idx, d) → d ≤ 8 →
      (idx ≠ 0 → ∃ v, Mem.read sit idx = some v ∧ vlcEntry t bits = some { kind := .terminal, val := v, len := d }) ∧
      (idx = 0 → vlcEntry t bits = some { kind := .zerorun, val := 0, len := d })) ∧
    (∀ node, 8 ≤ bits.length → vlcDescend t (vlcRoot t) (bits.take 8) = some (.inner node, 8) →
      vlcEntry t bits = some { kind := .deferred, val := BitVec.ofNat 32 node, len := 8 }) ∧
    decodeVlc t bits = vlcWalkDecode t bits

/-! ## Reset and the step -/

/-- R300, R301, R312: after reset every register reads 0, and an idle engine with no host access pending stays as it
is. Reset as an event, in any state, a running command included: every register is 0, the engine is idle and no fault
is recorded; that the host's pending accesses stand is the model's (log 18). -/
def Obligations.ResetLeavesTheBlockIdle : Prop :=
  (∀ r, regValue State.reset r = 0) ∧ State.reset.engine = .idle ∧
  (∀ s : State, s.engine = .idle → s.host = [] → step s = .next s) ∧
  (∀ (s : State) (rest : List HostEvent), s.host = { delay := 0, op := .reset } :: rest →
    ∃ t, step s = .next t ∧ t.engine = .idle ∧ (∀ r, regValue t r = 0) ∧ t.host = rest)

/-- R47, R60, R61, R100: a CMD value decodes to an instruction exactly if it is that command's value, and a write of it to
CMD runs that command while the host owns the block: not busy, and the last command's end seen (log 8). -/
def Obligations.CommandWriteRunsTheCommand : Prop :=
  (∀ (c : Reg) (i : Instr), decodeCommand c = .ok i ↔ encode i = .command c) ∧
  (∀ (s : State) (rest : List HostEvent) (i : Instr) (c : Reg), encode i = .command c →
    busy s = false → s.doneSeen = true → s.host = { delay := 0, op := .writeReg 0 c } :: rest → step s = exec i (s.setHost rest))

/-- R191, R194: while RLE_DEC runs, a step takes the token at `ip`, moves `ip` past it and runs it; a control byte that
is the region's last byte faults TruncatedInput at the region's end. -/
def Obligations.RleStepRunsTheToken : Prop :=
  ∀ (s : State) (l : Latch) (w : RleDecWork), s.host = [] → s.engine = .run l (.rleDec w) →
    (∀ (i : Instr) (us : List Byte), i.wellFormed = true → encode i = .rle us →
      w.ip + us.length ≤ l.off + l.n → inBytes s w.ip us.length = us →
      step s = exec i (s.setRun l (.rleDec { w with ip := w.ip + us.length }))) ∧
    (w.ip + 1 = l.off + l.n → inByte s w.ip = 0x90 → step s = .next (raise .truncatedInput (l.off + l.n) s))

/-- R124: while LZSS_DEC runs with a control bit buffered, a step takes the token whose encoding stands next in the
stream, moves the reader past it and runs it. -/
def Obligations.LzssStepRunsTheToken : Prop :=
  ∀ (s : State) (l : Latch) (w w' : LzssDecWork) (i : Instr),
    s.host = [] → s.engine = .run l (.lzssDec w) → i.wellFormed = true → (encode i).lzssUnits ≠ [] →
    lzssReads s l (encode i).lzssUnits w = some w' →
    step s = exec i (s.setRun l (.lzssDec w'))

/-- R164, R165: while LZW_DEC runs, a step widens the code as R164 says, reads one code at that width, moves `p` past
it and runs it. -/
def Obligations.LzwStepRunsTheCode : Prop :=
  ∀ (s : State) (l : Latch) (w : LzwDecWork) (i : Instr) (size wd : Nat),
    s.host = [] → s.engine = .run l (.lzwDec w) →
    size = (if w.prev = none then 257 + w.dict.length else 257 + w.dict.length + 1) →
    wd = (if 2 ^ w.w < size ∧ w.w < w.maxW then w.w + 1 else w.w) →
    w.p + wd ≤ 8 * l.n →
    decodeLzw { next := 257 + w.dict.length, maxW := w.maxW, havePrev := w.prev.isSome }
      (bitsToNat (inBitList s l w.p wd)) = .ok i →
    step s = exec i (s.setRun l (.lzwDec { w with p := w.p + wd, w := wd }))

/-- R241, R246, R248: while VLC_DECODE runs below its word limit and inside the chunk, a step runs the token the tables
read at `p`. At the word limit it stops with LIMIT, at the end of the chunk or at a token not wholly inside it with no
flag; SRC_USED is the bytes up to `p`. -/
def Obligations.VlcStepRunsTheToken : Prop :=
  ∀ (s : State) (l : Latch) (w : VlcDecodeWork), s.host = [] → s.engine = .run l (.vlcDecode w) →
    (∀ (i : Instr) (rest : List Bool), (l.a1 = 0 ∨ w.words < l.a1) → w.p < 8 * l.n →
      decodeVlc (tablesOf s) (inBitList s l w.p (8 * l.n - w.p)) = .ok (i, rest) → step s = exec i s) ∧
    (l.a1 ≠ 0 → l.a1 ≤ w.words →
      step s = .next { s with srcUsed := BitVec.ofNat 32 ((w.p + 7) / 8), status := 0b10010, engine := .idle }) ∧
    ((l.a1 = 0 ∨ w.words < l.a1) →
      (8 * l.n ≤ w.p ∨ decodeVlc (tablesOf s) (inBitList s l w.p (8 * l.n - w.p)) = .error .endOfChunk) →
      step s = .next { s with srcUsed := BitVec.ofNat 32 ((w.p + 7) / 8), status := 0b00010, engine := .idle })

/-! ## The command frame -/

/-- R11, R47, R307: from the start of a command until the host has read STATUS with DONE = 1, so while BUSY = 1 and after
the command's end too, a host write to any register, CMD included (log 8), or to a cell of IN or SIT is ignored. -/
def Obligations.HostWritesIgnoredWhileEngineOwns : Prop :=
  ∀ (s : State) (rest : List HostEvent) (op : HostOp),
    ((∃ r v, op = .writeReg r v) ∨ (∃ a v, op = .writeIn a v ∧ a + 1 ≤ Config.inCap) ∨
      (∃ a v, op = .writeSit a v ∧ a < 8192)) →
    busy s = true ∨ s.doneSeen = false → s.host = { delay := 0, op := op } :: rest → step s = .next (s.setHost rest)

/-- R103: an illegal command stores CMD, clears the result registers as every start does (log 13), faults
IllegalCommand at position 0 and changes nothing else but the model's own record of starts (log 2) and of ownership
(R47). -/
def Obligations.IllegalCommandFaults : Prop :=
  ∀ (s : State) (rest : List HostEvent) (c : Reg),
    (∀ i, encode i ≠ .command c) → busy s = false → s.doneSeen = true →
    s.host = { delay := 0, op := .writeReg 0 c } :: rest →
    step s = .next { s with
      cmd := c, status := 0b00110, errcode := 16, errpos := 0, dstLen := 0, srcUsed := 0,
      doneSeen := false, starts := s.starts + 1, engine := .idle, host := rest }

/-- R102, R275: every command but CLEAR faults BadParameter at position 0 if its region or its capacity lies outside the
apertures, before any other check and before the refusal of unwritten input (log 4). VLC_BUILD's tables are dead then
(R233, R280; log 23); any other command leaves TAB_INFO as it was. -/
def Obligations.OperandCheckFaultsBadParameter : Prop :=
  ∀ (s : State) (i : Instr), isCommand i = true → i ≠ .clear → busy s = false →
    (Config.inCap < s.srcOff.toNat + s.srcLen.toNat ∨ Config.outCap < s.dstCap.toNat) →
    exec i s = .next { s with
      cmd := commandValue i, status := 0b00110, errcode := 17, errpos := 0, dstLen := 0, srcUsed := 0,
      tabInfo := if i = .vlcBuild then 0 else s.tabInfo
      doneSeen := false, starts := s.starts + 1, engine := .idle }

/-- R303: every command that reads its region is refused on one with a byte the host has never written, once the checks
that read no input have passed (log 4). The model's own stop (log 14): a token is refused by name in a state whose
engine is idle or runs any other command than the decoder that fetches it. -/
def Obligations.StopsOutsideTheSpec : Prop :=
  (∀ (s : State) (i : Instr), isCommand i = true → i ≠ .clear → busy s = false →
    s.srcOff.toNat + s.srcLen.toNat ≤ Config.inCap → s.dstCap.toNat ≤ Config.outCap → OwnChecksPass i s →
    (∃ k < s.srcLen.toNat, Mem.read s.inMem (s.srcOff.toNat + k) = none) →
    exec i s = .refused .unwrittenInput) ∧
  (∀ (s : State) (i : Instr), isCommand i = false → (∀ l w, s.engine = .run l w → ¬ fetchedBy (encode i) w) →
    exec i s = .refused .tokenNotFetchable)

/-- R106: CLEAR makes TAB_INFO 0 and STATUS DONE alone, clears the result registers, and touches nothing else but the
model's record of who owns the results (R47) and of the starts (log 2). -/
def Obligations.ClearResult : Prop :=
  ∀ s : State, busy s = false →
    exec .clear s = .next { s with
      cmd := 0x0F, status := 0b00010, errcode := 0, errpos := 0, dstLen := 0, srcUsed := 0,
      tabInfo := 0, doneSeen := false, starts := s.starts + 1, engine := .idle }

/-- R101, R120, R121, R145, R190, R196: RLE_DEC and RLE_ENC start on the latched operands. LZSS_DEC starts with the
first control word loaded, or with the bit source exhausted where the region has fewer than two bytes, `bitbuf` then
holding a free value (log 22). LZSS_ENC starts by emitting two placeholder bytes that reserve OUT[0..1] for the first
control word; with room for fewer it faults OutputOverflow, at SRC_OFF by the model's reading (log 12). -/
def Obligations.RleAndLzssCommandsStart : Prop :=
  ∀ s : State, ReadyToStart s →
    exec .rleDec s = .next ((s.begin 0x05).setRun (latchOf s)
      (.rleDec { ip := s.srcOff.toNat, last := none })) ∧
    exec .rleEnc s = .next ((s.begin 0x06).setRun (latchOf s) (.rleEnc { i := 0 })) ∧
    exec .lzssDec s = .next ((s.begin 0x01).setRun (latchOf s) (.lzssDec
      (if 2 ≤ s.srcLen.toNat then
        { ip := s.srcOff.toNat + 2
          bitbuf := inByte s (s.srcOff.toNat + 1) ++ inByte s s.srcOff.toNat
          bitcnt := 16, wp := 0, total := 0 }
      else
        { ip := s.srcOff.toNat, bitbuf := Config.unspecBitbuf (s.starts + 1), bitcnt := 0, wp := 0, total := 0 }))) ∧
    (2 ≤ s.dstCap.toNat →
      exec .lzssEnc s = .next ((withOutput (s.begin 0x02) [0, 0]).setRun (latchOf s)
        (.lzssEnc { pos := 0, cw := 0, cc := 0, slot := 0 }))) ∧
    (s.dstCap.toNat < 2 → ∃ t, exec .lzssEnc s = .next t ∧ t.status = 0b00110 ∧ t.errcode = 18 ∧
      t.errpos = s.srcOff ∧ t.engine = .idle)

/-- R161, R165, R172: LZW_DEC and LZW_ENC start with an empty dictionary at width 9 if `max_code_width` is 9 to 12,
and fault BadParameter if it is not. -/
def Obligations.LzwCommandsStart : Prop :=
  ∀ (s : State) (m : Int), m = (s.arg0.setWidth 8).toInt → ReadyToStart s →
    (9 ≤ m → m ≤ 12 →
      exec .lzwDec s = .next ((s.begin 0x03).setRun (latchOf s) (.lzwDec
        { p := 0, w := 9, maxW := m.toNat, dict := [], prev := none })) ∧
      exec .lzwEnc s = .next ((s.begin 0x04).setRun (latchOf s) (.lzwEnc
        { i := 0, w := 9, maxW := m.toNat, dict := [], pre := none, acc := [] }))) ∧
    (m < 9 ∨ 12 < m →
      exec .lzwDec s = .next (raise .badParameter 0 (s.begin 0x03)) ∧
      exec .lzwEnc s = .next (raise .badParameter 0 (s.begin 0x04)))

/-- R211, R212: WAVELET_INV makes its checks in their order and then starts with the plane loaded. -/
def Obligations.WaveletInvStarts : Prop :=
  ∀ (s : State) (t0 n : Nat), t0 = s.arg0.toNat → n = s.arg1.toNat → ReadyToStart s →
    ((t0 < 1 ∨ n < t0 ∨ 0x10000 < n * n ∨ ∀ k, n ≠ t0 * 2 ^ k) →
      exec .waveletInv s = .next (raise .badParameter 0 (s.begin 0x07))) ∧
    (1 ≤ t0 → n * n ≤ 0x10000 → (∃ k, n = t0 * 2 ^ k) →
      (s.srcLen.toNat ≠ 4 * (n * n) →
        exec .waveletInv s = .next (raise .sizeMismatch 0 (s.begin 0x07))) ∧
      (s.srcLen.toNat = 4 * (n * n) → s.dstCap.toNat < 4 * (n * n) →
        exec .waveletInv s = .next (raise .outputOverflow s.srcOff.toNat (s.begin 0x07))) ∧
      (s.srcLen.toNat = 4 * (n * n) → 4 * (n * n) ≤ s.dstCap.toNat →
        exec .waveletInv s = .next ((s.begin 0x07).setRun (latchOf s) (.wavelet
          { size := n, t := t0
            coef := (List.range (n * n)).map fun i => inWord s (s.srcOff.toNat + 4 * i)
            y := none }))))

/-- R233 to R235, R241: VLC_BUILD kills the old tables first, checks S, then the dictionary's length, and starts with
the pair count read and, in this model, TAB1 emptied (log 16); these two faults leave TAB_VALID = 0, as its others do
(OperandCheckFaultsBadParameter, VlcBuildWholeRun). VLC_DECODE starts if TAB_VALID is set and faults
VlcNoTable if it is not. -/
def Obligations.VlcCommandsStart : Prop :=
  ∀ (s : State) (sc cnt : Nat), sc = s.arg0.toNat → cnt = inField s (latchOf s) 0 13 → ReadyToStart s →
    (sc < 1 ∨ 8192 < sc → exec .vlcBuild s = .next (raise .badParameter 0 (s.begin 0x08).clearTab)) ∧
    (1 ≤ sc → sc ≤ 8192 → (8 * s.srcLen.toNat < 13 ∨ 8 * s.srcLen.toNat < 13 + 26 * cnt) →
      exec .vlcBuild s = .next (raise .truncatedInput (s.srcOff.toNat + s.srcLen.toNat)
        (s.begin 0x08).clearTab)) ∧
    (1 ≤ sc → sc ≤ 8192 → 13 ≤ 8 * s.srcLen.toNat → 13 + 26 * cnt ≤ 8 * s.srcLen.toNat →
      exec .vlcBuild s = .next (((s.begin 0x08).clearTab.setTab1 []).setRun (latchOf s) (.vlcBuild
        { p := 13, cnt := cnt, s := sc }))) ∧
    (tabValid s = true →
      exec .vlcDecode s = .next ((s.begin 0x09).setRun (latchOf s) (.vlcDecode { p := 0, words := 0 }))) ∧
    (tabValid s = false → exec .vlcDecode s = .next (raise .vlcNoTable 0 (s.begin 0x09)))

/-! ## Faults and output -/

/-- R270, R280, R105: raising a fault records its code and position, sets STATUS to DONE and ERR alone, stops the command
and changes nothing else; the codes are those of the fault table. Emitting a byte sequence stores the bytes that fit
below the capacity, in order at DST_LEN, and faults OutputOverflow at the first that does not. -/
def Obligations.RaiseAndEmit : Prop :=
  (∀ (f : BlockFault) (pos : Nat) (s : State), pos < 2 ^ 32 →
    (raise f pos s).errcode.toNat = f.code ∧ (raise f pos s).errpos.toNat = pos ∧
    raise f pos s = { s with
      errcode := (raise f pos s).errcode, errpos := (raise f pos s).errpos, status := 0b00110, engine := .idle }) ∧
  ([.truncatedInput, .invalidHeader, .unsupportedBlockType, .sizeMismatch, .invalidPalette,
      .unexpectedEndOfStream, .illegalCommand, .badParameter, .outputOverflow, .lzssBadDistance, .lzwBadCode,
      .rleNoPrevious, .vlcBadTable, .vlcNoTable, .vlcZeroLengthCode, .arithmeticOverflow] :
    List BlockFault).map BlockFault.code = [1, 2, 3, 4, 5, 6, 16, 17, 18, 19, 20, 21, 22, 23, 24, 25] ∧
  (∀ (s : State) (l : Latch) (ip : Nat) (bs : List Byte),
    (Room s l bs.length → emitAll l.cap ip bs s = .ok (withOutput s bs)) ∧
    (NoRoom s l bs.length → emitAll l.cap ip bs s = .error (overflowed l ip bs s)))

/-- R105, R281: a token, a soft end, a group or an input byte whose output does not fit below the capacity stores the
bytes that do, which stay in OUT (log 19), and faults OutputOverflow. Its position is `ip` at that moment: in RLE_DEC
and LZSS_DEC past the token; in an encoder SRC_OFF plus the index of the byte being encoded, LZSS_ENC's control words
included, and at the end of LZSS_ENC and LZW_ENC the region's end (that end is the model's reading, log 12); in LZW_DEC,
TERM and DEEP and in ZRUN the cursor as the token's pseudocode has it (the model's reading, log 17). -/
def Obligations.OutputWithoutRoom : Prop :=
  ∀ (s : State) (l : Latch),
    (∀ w : RleDecWork, s.engine = .run l (.rleDec w) →
      (∀ b : Byte, NoRoom s l 1 →
        exec (.rleByte b) s = .next (overflowed l w.ip [b] s) ∧ exec .rleEsc s = .next (overflowed l w.ip [0x90] s)) ∧
      (∀ (n : Nat) (b : Byte), w.last = some b → NoRoom s l (n - 1) →
        exec (.rleRun n) s = .next (overflowed l w.ip (List.replicate (n - 1) b) s))) ∧
    (∀ w : LzssDecWork, s.engine = .run l (.lzssDec w) →
      (∀ v : Byte, 0x4000 ≤ w.wp → NoRoom s l 0x2000 → ∃ t, exec (.lzssLit v) s = .next t ∧
        t = (overflowed l w.ip (winBytes s.win 0 0x2000) s).setWin t.win) ∧
      (∀ (len dist : Nat) (i : Instr), i ∈ [Instr.lzssSref len dist, .lzssLref len dist, .lzssXref len dist] →
        i.wellFormed = true → dist ≤ w.total + w.wp → 0x4000 < w.wp + len → NoRoom s l 0x2000 →
        ∃ t, exec i s = .next t ∧ t = (overflowed l w.ip (winBytes s.win 0 0x2000) s).setWin t.win) ∧
      (NoRoom s l w.wp → (∀ off13, exec (.lzssEnd off13) s = .next (overflowed l w.ip (winBytes s.win 0 w.wp) s)) ∧
        (s.host = [] → w.bitcnt = 0 → step s = .next (overflowed l w.ip (winBytes s.win 0 w.wp) s)))) ∧
    (∀ w : LzwDecWork, s.engine = .run l (.lzwDec w) →
      (∀ b : Byte, NoRoom s l 1 → exec (.lzwByte b) s = .next (overflowed l (l.off + w.p / 8) [b] s)) ∧
      (∀ (k : Nat) (e : List Byte), 257 ≤ k → w.dict[k - 257]? = some e → NoRoom s l e.length →
        exec (.lzwEntry k) s = .next (overflowed l (l.off + w.p / 8) e s)) ∧
      (∀ (pc : Nat) (c : Byte) (ps : List Byte), w.prev = some pc → lzwString w.dict pc = some (c :: ps) →
        257 + w.dict.length < 2 ^ w.maxW → NoRoom s l (ps.length + 2) →
        exec (.lzwKwk (257 + w.dict.length)) s = .next (overflowed l (l.off + w.p / 8) (c :: ps ++ [c]) s))) ∧
    (∀ w : VlcDecodeWork, s.engine = .run l (.vlcDecode w) →
      (∀ (path : List Bool) (v : Word), path ≠ [] →
        s.tab2[bitsToNat (path.take 8)]? = some { kind := .terminal, val := v, len := path.length } → NoRoom s l 4 →
        exec (.vlcTerm path) s = .next (overflowed l (l.off + w.p / 8) (leBytes v) s)) ∧
      (∀ (path : List Bool) (run cut : Nat), run < 1024 →
        s.tab2[bitsToNat ((path ++ natToBits run 10).take 8)]? =
          some { kind := .zerorun, val := 0, len := path.length } →
        cut = (if l.a1 ≠ 0 ∧ l.a1 < w.words + run then l.a1 - w.words else run) → NoRoom s l (4 * cut) →
        exec (.vlcZrun path run) s =
          .next (overflowed l (l.off + (w.p + path.length + 10) / 8) (List.replicate (4 * cut) 0) s)) ∧
      (∀ (path : List Bool) (node v : Word) (idx : Nat), 8 ≤ path.length →
        s.tab2[bitsToNat (path.take 8)]? = some { kind := .deferred, val := node, len := 8 } →
        vlcDescend (tablesOf s) (.inner node.toNat) (path.drop 8) = some (.leaf idx, path.length - 8) →
        Mem.read s.sit idx = some v → NoRoom s l 4 →
        exec (.vlcDeep path) s = .next (overflowed l (l.off + w.p / 8) (leBytes v) s))) ∧
    (∀ w : RleEncWork, s.host = [] → s.engine = .run l (.rleEnc w) → w.i < l.n →
      NoRoom s l (rleGroup ((regionBytes s l).drop w.i)).1.length →
      step s = .next (overflowed l (l.off + w.i) (rleGroup ((regionBytes s l).drop w.i)).1 s)) ∧
    (∀ (w : LzssEncWork) (us : List LzssUnit), s.host = [] → s.engine = .run l (.lzssEnc w) → LzssEncOk s l w →
      (w.pos < l.n ∧
          us = (encode (lzssChoose (inByte s (l.off + w.pos)) (bestMatch (regionBytes s l) w.pos))).lzssUnits ∧
          NoRoom s l (lzssUnitBytes w.cc us)) ∨
        (w.pos = l.n ∧ us = (encode (.lzssEnd 0)).lzssUnits ∧
          NoRoom s l (lzssUnitBytes w.cc us + (16 - (s.dstLen.toNat + lzssUnitBytes w.cc us) % 16) % 16)) →
      ∃ t, step s = .next t ∧ t.engine = .idle ∧ t.status = 0b00110 ∧ t.errcode = 18 ∧
        t.errpos = BitVec.ofNat 32 (l.off + w.pos) ∧ t.dstLen.toNat = l.cap ∧
        ∀ a < s.dstLen.toNat, a ≠ w.slot → a ≠ w.slot + 1 → Mem.read t.outMem a = Mem.read s.outMem a) ∧
    (∀ w : LzwEncWork, s.host = [] → s.engine = .run l (.lzwEnc w) →
      (w.i < l.n → NoRoom s l (lzwEncByte w (inByte s (l.off + w.i))).1.length →
        step s = .next (overflowed l (l.off + w.i) (lzwEncByte w (inByte s (l.off + w.i))).1 s)) ∧
      (w.i = l.n → NoRoom s l (lzwEncTail w).length →
        step s = .next (overflowed l (l.off + l.n) (lzwEncTail w) s)))

/-! ## RLE -/

/-- R192, R193, R195: BYTE and ESC output their byte, which becomes the previous one. RUN `n` outputs `n - 1` further
copies of the previous byte; with no previous byte it faults RleNoPrevious whatever the capacity. -/
def Obligations.RleTokenResults : Prop :=
  ∀ (s : State) (l : Latch) (w : RleDecWork), s.engine = .run l (.rleDec w) →
    (∀ b : Byte, Room s l 1 →
      exec (.rleByte b) s = .next ((withOutput s [b]).setRun l (.rleDec { w with last := some b })) ∧
      exec .rleEsc s = .next ((withOutput s [0x90]).setRun l (.rleDec { w with last := some 0x90 }))) ∧
    (∀ n, 1 ≤ n →
      (∀ b, w.last = some b → Room s l (n - 1) →
        exec (.rleRun n) s = .next ((withOutput s (List.replicate (n - 1) b)).setRun l (.rleDec w))) ∧
      (w.last = none → exec (.rleRun n) s = .next (raise .rleNoPrevious w.ip s)))

/-- R199: decoding what RLE_ENC encodes gives the input back; in particular the encoding parses into tokens and every
RUN follows an output byte. -/
def Obligations.RleRoundTrip : Prop :=
  ∀ d : List Byte,
    rleDecodeFrom ((rleEncodeFrom d.length d).length + 1) none (rleEncodeFrom d.length d) = some d

/-- R191, R196 to R198: with `r` the longest run of equal bytes at the head of the input, at most 255, RLE_ENC emits its
byte, 90 as `90 00`, and then, exactly where `r` is 3 or more, `90 r` for all `r` bytes. RLE_ENC, started and left alone with room enough, ends with the whole encoding of its region in OUT;
RLE_DEC, on a region that decodes, with the whole decoding; each with SRC_USED = SRC_LEN and STATUS = DONE, and nothing
else changed. -/
def Obligations.RleWholeRuns : Prop :=
  (∀ (b : Byte) (tl : List Byte) (r : Nat), 1 ≤ r → r ≤ 255 → (∀ k < r, (b :: tl)[k]? = some b) →
    r = 255 ∨ (b :: tl)[r]? ≠ some b →
    rleGroup (b :: tl) = ((if b = 0x90 then [0x90, 0x00] else [b]) ++ (if 3 ≤ r then [0x90, BitVec.ofNat 8 r] else []),
      if 3 ≤ r then r else 1)) ∧
  ∀ (s : State) (l : Latch), s.host = [] → l.n < 2 ^ 32 →
    (s.engine = .run l (.rleEnc { i := 0 }) → Room s l (rleEncodeFrom l.n (regionBytes s l)).length →
      ∃ k, Host.Core.run core k s =
        .next { withOutput s (rleEncodeFrom l.n (regionBytes s l)) with
          srcUsed := BitVec.ofNat 32 l.n, status := 0b00010, engine := .idle }) ∧
    (∀ out, s.engine = .run l (.rleDec { ip := l.off, last := none }) →
      rleDecodeFrom (l.n + 1) none (regionBytes s l) = some out → Room s l out.length →
      ∃ k, Host.Core.run core k s =
        .next { withOutput s out with srcUsed := BitVec.ofNat 32 l.n, status := 0b00010, engine := .idle })

/-! ## LZSS -/

/-- R126 to R129, R132 to R135, R275: LIT appends its byte to the decoded history. A reference to a byte already
produced extends the history exactly as a decoder with an unbounded history buffer would, overlapping copies included,
whether or not the window slides. No cursor but `wp` moves. A distance beyond the bytes produced faults
LzssBadDistance, whatever the capacity. -/
def Obligations.LzssTokensExtendHistory : Prop :=
  ∀ (s : State) (l : Latch) (w : LzssDecWork), s.engine = .run l (.lzssDec w) →
    (∀ v : Byte, LzssDecOk s l w → (w.wp + 1 ≤ 0x4000 ∨ Room s l 0x2000) →
      ∃ t w', exec (.lzssLit v) s = .next t ∧ t.engine = .run l (.lzssDec w') ∧
        lzssHistory t w' = lzssHistory s w ++ [some v] ∧
        w'.ip = w.ip ∧ w'.bitbuf = w.bitbuf ∧ w'.bitcnt = w.bitcnt) ∧
    (∀ (len dist : Nat) (i : Instr), i ∈ [Instr.lzssSref len dist, .lzssLref len dist, .lzssXref len dist] →
      (LzssDecOk s l w → i.wellFormed = true → dist ≤ w.total + w.wp → (w.wp + len ≤ 0x4000 ∨ Room s l 0x2000) →
        ∃ t w', exec i s = .next t ∧ t.engine = .run l (.lzssDec w') ∧
          lzssHistory t w' = copyBack dist len (lzssHistory s w) ∧
          w'.ip = w.ip ∧ w'.bitbuf = w.bitbuf ∧ w'.bitcnt = w.bitcnt) ∧
      (w.total + w.wp < dist → exec i s = .next (raise .lzssBadDistance w.ip s)))

/-- R130, R131, R136: SEG changes nothing, whatever its descriptor bits. END flushes the window and finishes with DONE
alone, SRC_USED counting the bytes consumed. -/
def Obligations.LzssSegAndEndResults : Prop :=
  ∀ (s : State) (l : Latch) (w : LzssDecWork) (off13 : Nat), s.engine = .run l (.lzssDec w) →
    (w.wp ≤ 0x4000 → exec (.lzssSeg off13) s = .next s) ∧
    (LzssDecOk s l w → Room s l w.wp →
      ∃ t, exec (.lzssEnd off13) s = .next t ∧ outCells t = lzssHistory s w ∧
        t.dstLen.toNat = s.dstLen.toNat + w.wp ∧ t.srcUsed = BitVec.ofNat 32 (w.ip - l.off) ∧
        t.status = 0b00010 ∧ t.engine = .idle)

/-- R123, R125: with no control bit left between tokens LZSS_DEC flushes the window and finishes with SOFT_END. Where
the units read so far are a proper part of some token's encoding, and its next control bit finds no bit buffered or its
next data byte finds the region at its end, the command faults UnexpectedEndOfStream at the input position then, at
most five bytes on. -/
def Obligations.LzssExhaustion : Prop :=
  ∀ (s : State) (l : Latch) (w : LzssDecWork), s.host = [] → s.engine = .run l (.lzssDec w) →
    (LzssDecOk s l w → Room s l w.wp → w.bitcnt = 0 →
      ∃ t, step s = .next t ∧ outCells t = lzssHistory s w ∧
        t.srcUsed = BitVec.ofNat 32 (w.ip - l.off) ∧ t.status = 0b01010 ∧ t.engine = .idle) ∧
    (∀ (i : Instr) (us rest : List LzssUnit) (u : LzssUnit) (w' : LzssDecWork),
      i.wellFormed = true → (encode i).lzssUnits = us ++ u :: rest → us ≠ [] → lzssReads s l us w = some w' →
      ((∃ b, u = .bit b) ∧ w'.bitcnt = 0 ∨ (∃ v, u = .byte v) ∧ l.off + l.n ≤ w'.ip) →
      step s = .next (raise .unexpectedEndOfStream w'.ip s) ∧ w.ip ≤ w'.ip ∧ w'.ip ≤ w.ip + 5)

/-- R149: BestMatch is a longest match within 8192 bytes back and 253 bytes long, the closest of the longest, (0, 0)
where nothing matches; it agrees with the input it stands for, which may overlap the position. -/
def Obligations.BestMatchIsLongestAndClosest : Prop :=
  ∀ (d : List Byte) (pos : Nat), pos ≤ d.length →
    let m := bestMatch d pos
    m.1 ≤ 253 ∧ pos + m.1 ≤ d.length ∧ (m.1 = 0 → m.2 = 0) ∧
    (m.1 ≠ 0 → 1 ≤ m.2 ∧ m.2 ≤ 8192 ∧ m.2 ≤ pos ∧ ∀ k < m.1, d[pos + k]? = d[pos - m.2 + k]?) ∧
    (∀ len dist, 1 ≤ dist → dist ≤ 8192 → dist ≤ pos → len ≤ 253 → pos + len ≤ d.length →
      (∀ k < len, d[pos + k]? = d[pos - dist + k]?) → len ≤ m.1 ∧ (len = m.1 → len ≠ 0 → m.2 ≤ dist))

/-- R150 to R152: which token stands for a match of length `len` at distance `dist`, whose literal byte is `v`; and the
token LZSS_ENC chooses at a position is well-formed, its length fits its form, a reference reaches no further back than
the position, and its length is that of the best match. -/
def Obligations.LzssChosenTokenIsEncodable : Prop :=
  (∀ (v : Byte) (len dist : Nat),
    (len < 2 ∨ (len = 2 ∧ 256 ≤ dist) → lzssChoose v (len, dist) = .lzssLit v) ∧
    (2 ≤ len → len ≤ 5 → dist ≤ 256 → ¬ (len = 2 ∧ dist = 256) → lzssChoose v (len, dist) = .lzssSref len dist) ∧
    (3 ≤ len → len ≤ 9 → 5 < len ∨ 256 < dist → lzssChoose v (len, dist) = .lzssLref len dist) ∧
    (10 ≤ len → lzssChoose v (len, dist) = .lzssXref len dist)) ∧
  (∀ (d : List Byte) (pos : Nat) (v : Byte), pos < d.length →
    (lzssChoose v (bestMatch d pos)).wellFormed = true ∧
    (∀ len dist, lzssChoose v (bestMatch d pos) ∈
        [Instr.lzssSref len dist, .lzssLref len dist, .lzssXref len dist] →
      (len, dist) = bestMatch d pos ∧ dist ≤ pos ∧ lzssAdvance (bestMatch d pos) = len) ∧
    (lzssChoose v (bestMatch d pos) = .lzssLit v → lzssAdvance (bestMatch d pos) = 1))

/-- R146: PutBit fills bit `cc` of the control word; the 16th bit writes the word, little-endian, into its reserved
slot and reserves the next one at the end of the output. -/
def Obligations.LzssWriterPutsBits : Prop :=
  ∀ (s : State) (l : Latch) (w : LzssEncWork) (b : Bool), LzssEncOk s l w →
    (w.cc < 15 → lzssPut l (.bit b) w s =
      .ok (s, { w with cw := w.cw ||| (BitVec.ofNat 16 b.toNat <<< w.cc), cc := w.cc + 1 })) ∧
    (w.cc = 15 → Room s l 2 → ∃ t w', lzssPut l (.bit b) w s = .ok (t, w') ∧
      w' = { w with cw := 0, cc := 0, slot := s.dstLen.toNat } ∧
      t.dstLen.toNat = s.dstLen.toNat + 2 ∧
      (∃ lo hi, Mem.read t.outMem w.slot = some lo ∧ Mem.read t.outMem (w.slot + 1) = some hi ∧
        hi ++ lo = w.cw ||| (BitVec.ofNat 16 b.toNat <<< 15)) ∧
      ∀ a, a ≠ w.slot → a ≠ w.slot + 1 → a < s.dstLen.toNat →
        Mem.read t.outMem a = Mem.read s.outMem a)

/-- R147, R148, R153, R155: LZSS_ENC, started on a written region and left alone, ends with the whole encoding of the
region in OUT: the chosen tokens, END, every control word where the reader refills, the last one partial, zero bytes up
to a multiple of 16, SRC_USED = SRC_LEN, STATUS = DONE. With less room it ends in OutputOverflow with DST_LEN =
DST_CAP, at a position in the region or at its end (log 12). The encoding is at most SRC_LEN + SRC_LEN / 8 + 32 bytes,
R155's second bound (its first is log 24). -/
def Obligations.LzssEncWholeRun : Prop :=
  (∀ d : List Byte, (lzssEncoded d).length % 16 = 0 ∧ (lzssEncoded d).length ≤ d.length + d.length / 8 + 32) ∧
  (∀ (s : State) (out : List Byte), ReadyToStart s → s.host = [] → out = lzssEncoded (regionBytes s (latchOf s)) →
    (out.length ≤ s.dstCap.toNat → ∃ s1 k t, exec .lzssEnc s = .next s1 ∧ Host.Core.run core k s1 = .next t ∧
      t.engine = .idle ∧ t.status = 0b00010 ∧ t.srcUsed = s.srcLen ∧ t.dstLen.toNat = out.length ∧
      outCells t = out.map some ∧ (∀ a, out.length ≤ a → Mem.read t.outMem a = Mem.read s.outMem a)) ∧
    (s.dstCap.toNat < out.length → ∃ s1 k t, exec .lzssEnc s = .next s1 ∧ Host.Core.run core k s1 = .next t ∧
      t.engine = .idle ∧ t.status = 0b00110 ∧ t.errcode = 18 ∧ t.dstLen = s.dstCap ∧
      s.srcOff.toNat ≤ t.errpos.toNat ∧ t.errpos.toNat ≤ s.srcOff.toNat + s.srcLen.toNat))

/-- R154: LZSS_DEC gives back what LZSS_ENC was given, for every input with enough capacity. -/
def Obligations.LzssRoundTrip : Prop := RoundTrips .lzssEnc .lzssDec

/-! ## LZW -/

/-- R165, R166, R170: BYTE and ENTRY output their string, assign the previous string and the first byte of their own if
there is a previous code and the dictionary is not full, and become the previous code. -/
def Obligations.LzwByteAndEntryResults : Prop :=
  ∀ (s : State) (l : Latch) (w : LzwDecWork) (c : Byte) (e : List Byte) (k : Nat) (i : Instr),
    s.engine = .run l (.lzwDec w) →
    (i = .lzwByte c ∧ k = c.toNat ∧ e = []) ∨ (i = .lzwEntry k ∧ 257 ≤ k ∧ w.dict[k - 257]? = some (c :: e)) →
    Room s l (e.length + 1) →
    (w.prev = none → exec i s = .next ((withOutput s (c :: e)).setRun l (.lzwDec { w with prev := some k }))) ∧
    (∀ pc ps, w.prev = some pc → lzwString w.dict pc = some ps → 257 + w.dict.length < 2 ^ w.maxW →
      exec i s = .next ((withOutput s (c :: e)).setRun l
        (.lzwDec { w with dict := w.dict ++ [ps ++ [c]], prev := some k }))) ∧
    (2 ^ w.maxW ≤ 257 + w.dict.length →
      exec i s = .next ((withOutput s (c :: e)).setRun l (.lzwDec { w with prev := some k })))

/-- R167, R168: KWK outputs the previous string and that string's first byte, and assigns exactly that. CLR empties the
dictionary, sets the width back to 9 and forgets the previous code; it outputs nothing. -/
def Obligations.LzwKwkAndClrResults : Prop :=
  ∀ (s : State) (l : Latch) (w : LzwDecWork), s.engine = .run l (.lzwDec w) →
    (∀ (pc : Nat) (c : Byte) (ps : List Byte), w.prev = some pc → lzwString w.dict pc = some (c :: ps) →
      257 + w.dict.length < 2 ^ w.maxW → Room s l (ps.length + 2) →
      exec (.lzwKwk (257 + w.dict.length)) s = .next ((withOutput s (c :: ps ++ [c])).setRun l
        (.lzwDec { w with dict := w.dict ++ [c :: ps ++ [c]], prev := some (257 + w.dict.length) }))) ∧
    exec .lzwClr s = .next (s.setRun l (.lzwDec { w with w := 9, dict := [], prev := none }))

/-- R169, R171: fewer bits than the width end LZW_DEC normally; a code that names nothing faults LzwBadCode at the
byte of its last bit. -/
def Obligations.LzwEndAndBadCode : Prop :=
  ∀ (s : State) (l : Latch) (w : LzwDecWork) (wd : Nat), s.host = [] → s.engine = .run l (.lzwDec w) →
    wd = lzwDecWidth w → 1 ≤ wd →
    (8 * l.n < w.p + wd → step s = .next (finish 0 ((w.p + 7) / 8) s)) ∧
    (w.p + wd ≤ 8 * l.n →
      (let k := bitsToNat (inBitList s l w.p wd)
       257 + w.dict.length < k ∨ (k = 257 + w.dict.length ∧ (w.prev = none ∨ 2 ^ w.maxW ≤ k))) →
      step s = .next (raise .lzwBadCode (l.off + (w.p + wd - 1) / 8) s))

/-- R162, R163, R172 to R174: with input byte `c` LZW_ENC writes the pending code `P`, bit 0 first, exactly where `(P, c)`
is not assigned; it then assigns it the next code and widens as R163 says if the dictionary is not full, and else
writes 256 at the same width and starts afresh. At the end the pending code is written and the last byte completed with
zero bits. LZW_ENC, started and left alone with room enough, ends with its whole code stream in OUT, SRC_USED = SRC_LEN
and STATUS = DONE, and nothing else changed. -/
def Obligations.LzwEncWholeRun : Prop :=
  (∀ (w : LzwEncWork) (c : Byte),
    (w.pre = none → lzwEncByte w c = ([], { w with i := w.i + 1, pre := some c.toNat })) ∧
    (∀ pc, w.pre = some pc →
      (∀ j, w.dict[j]? = some (pc, c) → (∀ k < j, w.dict[k]? ≠ some (pc, c)) →
        lzwEncByte w c = ([], { w with i := w.i + 1, pre := some (257 + j) })) ∧
      ((pc, c) ∉ w.dict → ∃ bs acc, acc.length < 8 ∧
        (257 + w.dict.length < 2 ^ w.maxW →
          byteBits bs ++ acc = w.acc ++ codeBits w.w pc ∧
          lzwEncByte w c = (bs, { w with
            i := w.i + 1
            dict := w.dict ++ [(pc, c)]
            w := if 2 ^ w.w < 257 + w.dict.length + 1 ∧ w.w < w.maxW then w.w + 1 else w.w
            pre := some c.toNat
            acc := acc })) ∧
        (2 ^ w.maxW ≤ 257 + w.dict.length →
          byteBits bs ++ acc = w.acc ++ codeBits w.w pc ++ codeBits w.w 256 ∧
          lzwEncByte w c = (bs, { w with i := w.i + 1, dict := [], w := 9, pre := some c.toNat, acc := acc }))))) ∧
  (∀ w : LzwEncWork, ∃ pad < 8,
    byteBits (lzwEncTail w) = w.acc ++ (w.pre.toList.flatMap (codeBits w.w)) ++ List.replicate pad false) ∧
  ∀ (s : State) (l : Latch) (w : LzwEncWork), s.host = [] → s.engine = .run l (.lzwEnc w) → w.i = 0 →
    l.n < 2 ^ 32 → Room s l (lzwEncodeFrom w (regionBytes s l)).length →
    ∃ k, Host.Core.run core k s =
      .next { withOutput s (lzwEncodeFrom w (regionBytes s l)) with
        srcUsed := BitVec.ofNat 32 l.n, status := 0b00010, engine := .idle }

/-- R175: LZW_DEC gives back what LZW_ENC was given, for every input and every `max_code_width` both accept. -/
def Obligations.LzwRoundTrip : Prop := RoundTrips .lzwEnc .lzwDec

/-! ## Wavelet -/

/-- R213 to R216: a horizontal pass fails exactly if one of its sums or differences lies outside the signed 32-bit
range. Where it does not, it and the vertical pass after it put into cell (r, c) of the top-left 2t by 2t block the
floored half of the sum (even rows) or difference (odd rows) of two horizontal results, each itself a sum (even
columns) or difference (odd columns) of two old cells; cells outside the block stay. -/
def Obligations.WaveletPassIsExact : Prop :=
  ∀ (coef : List Word) (size t : Nat), coef.length = size * size → 1 ≤ t → 2 * t ≤ size →
    let cell := fun (r c : Nat) => (coef.getD (r * size + c) 0).toInt
    let h := fun (r c : Nat) =>
      if c % 2 = 0 then cell r (c / 2) + cell r (t + c / 2) else cell r (c / 2) - cell r (t + c / 2)
    (wavHorizontalPass coef size t = none ↔ ∃ r c, r < 2 * t ∧ c < 2 * t ∧ (h r c < -2 ^ 31 ∨ 2 ^ 31 ≤ h r c)) ∧
    (∀ y, wavHorizontalPass coef size t = some y → ∀ r c, r < size → c < size →
      ((wavVerticalPass coef y size t).getD (r * size + c) 0).toInt =
        if r < 2 * t ∧ c < 2 * t then
          if r % 2 = 0 then Int.fdiv (h (r / 2) c + h (t + r / 2) c) 2
          else Int.fdiv (h (r / 2) c - h (t + r / 2) c) 2
        else cell r c)

/-- R213, R216, R217: WAVELET_INV, started and left alone, ends with the plane after its passes stored word by word,
little-endian, from OUT address 0, or with ArithmeticOverflow at position 0 and OUT untouched. -/
def Obligations.WaveletWholeRun : Prop :=
  ∀ (s : State) (l : Latch) (size t passes : Nat) (coef : List Word), s.host = [] →
    s.engine = .run l (.wavelet { size := size, t := t, coef := coef, y := none }) →
    1 ≤ t → size = t * 2 ^ passes →
    (∀ c, wavePasses size passes t coef = some c → ∃ k, Host.Core.run core k s =
      .next { s with
        outMem := Mem.writeAll s.outMem 0 (c.flatMap leBytes)
        dstLen := BitVec.ofNat 32 (4 * (size * size))
        srcUsed := BitVec.ofNat 32 (4 * (size * size))
        status := 0b00010
        engine := .idle }) ∧
    (wavePasses size passes t coef = none → ∃ k, Host.Core.run core k s =
      .next (raise .arithmeticOverflow 0 s))

/-! ## VLC -/

/-- R233 to R237: VLC_BUILD, started and left alone, ends with the dictionary's pairs in TAB1, TAB2 derived from them
and SIT, TAB_INFO valid and SRC_USED the dictionary's bytes; or with VlcBadTable and TAB_INFO as it was, which is 0
in a build, where a child does not exist, TAB1 then holding the rejected pairs (log 16); or refused where a SIT cell a
code of at most eight bits names was never written (R303; that no other cell of SIT[0..S-1] matters is log 5). -/
def Obligations.VlcBuildWholeRun : Prop :=
  ∀ (s : State) (l : Latch) (cnt sc : Nat), s.host = [] →
    s.engine = .run l (.vlcBuild { p := 13, cnt := cnt, s := sc }) → s.tab1 = [] →
    (∀ tab2, (∀ pr ∈ dictPairs s l cnt, pr.left < sc + cnt ∧ pr.right < sc + cnt) →
      vlcDeriveTab2 (dictPairs s l cnt) sc s.sit = some tab2 →
      ∃ k, Host.Core.run core k s =
        .next { s with
          tab1 := dictPairs s l cnt
          tab2 := tab2
          tabInfo := BitVec.ofNat 32 (1 + 2 * cnt + 0x4000 * sc)
          srcUsed := BitVec.ofNat 32 ((13 + 26 * cnt + 7) / 8)
          status := 0b00010
          engine := .idle }) ∧
    ((∃ pr ∈ dictPairs s l cnt, sc + cnt ≤ pr.left ∨ sc + cnt ≤ pr.right) →
      ∃ k, Host.Core.run core k s =
        .next (raise .vlcBadTable 0 { s with tab1 := dictPairs s l cnt })) ∧
    ((∀ pr ∈ dictPairs s l cnt, pr.left < sc + cnt ∧ pr.right < sc + cnt) →
      vlcDeriveTab2 (dictPairs s l cnt) sc s.sit = none →
      ∃ k, Host.Core.run core k s = .refused .unwrittenSit)

/-- R243, R247: TERM emits the word of its TAB2 entry, little-endian, and moves `p` past its path; with a zero-length
entry it faults VlcZeroLengthCode, whatever the capacity. -/
def Obligations.VlcTermResult : Prop :=
  ∀ (s : State) (l : Latch) (w : VlcDecodeWork) (path : List Bool) (v : Word),
    s.engine = .run l (.vlcDecode w) →
    s.tab2[bitsToNat (path.take 8)]? = some { kind := .terminal, val := v, len := path.length } →
    (path ≠ [] → Room s l 4 → exec (.vlcTerm path) s =
      .next ((withOutput s [v.extractLsb' 0 8, v.extractLsb' 8 8, v.extractLsb' 16 8, v.extractLsb' 24 8]).setRun l
        (.vlcDecode { p := w.p + path.length, words := w.words + 1 }))) ∧
    (path = [] → exec (.vlcTerm path) s = .next (raise .vlcZeroLengthCode (l.off + w.p / 8) s))

/-- R244, R248: ZRUN moves `p` past its path and ten run bits and emits that many zero words, cut short at the word
limit. -/
def Obligations.VlcZrunResult : Prop :=
  ∀ (s : State) (l : Latch) (w : VlcDecodeWork) (path : List Bool) (run cut : Nat),
    s.engine = .run l (.vlcDecode w) → run < 1024 →
    s.tab2[bitsToNat ((path ++ natToBits run 10).take 8)]? =
      some { kind := .zerorun, val := 0, len := path.length } →
    cut = (if l.a1 ≠ 0 ∧ l.a1 < w.words + run then l.a1 - w.words else run) → Room s l (4 * cut) →
    exec (.vlcZrun path run) s = .next ((withOutput s (List.replicate (4 * cut) 0)).setRun l
      (.vlcDecode { p := w.p + path.length + 10, words := w.words + cut }))

/-- R245, R303: DEEP walks Tab1 from the node its first eight bits select, emits the SIT word it ends on, index 0
included, and moves `p` past its path; where the host has never written that word it is refused. -/
def Obligations.VlcDeepResult : Prop :=
  ∀ (s : State) (l : Latch) (w : VlcDecodeWork) (path : List Bool) (node : Word) (idx : Nat),
    s.engine = .run l (.vlcDecode w) → 8 ≤ path.length →
    s.tab2[bitsToNat (path.take 8)]? = some { kind := .deferred, val := node, len := 8 } →
    vlcDescend (tablesOf s) (.inner node.toNat) (path.drop 8) = some (.leaf idx, path.length - 8) →
    (∀ v, Mem.read s.sit idx = some v → Room s l 4 → exec (.vlcDeep path) s =
      .next ((withOutput s [v.extractLsb' 0 8, v.extractLsb' 8 8, v.extractLsb' 16 8, v.extractLsb' 24 8]).setRun l
        (.vlcDecode { p := w.p + path.length, words := w.words + 1 }))) ∧
    (Mem.read s.sit idx = none → exec (.vlcDeep path) s = .refused .unwrittenSit)

/-! ## Frames -/

/-- What a token leaves unchanged: the operand registers, CMD and TAB_INFO, IN, SIT, the tables, and everything of the
host's; STATUS, ERRCODE, ERRPOS and SRC_USED unless it ends the command; every OUT byte but those from the old
DST_LEN up to the new one; and all of WIN unless it is LIT, SREF, LREF or XREF (from a window that is at most 0x4000
bytes full, as it is between tokens). -/
def Obligations.TokenFrame : Prop :=
  ∀ (i : Instr) (s t : State) (l : Latch) (w : Work), isCommand i = false → s.engine = .run l w →
    l.cap < 2 ^ 32 → s.dstLen.toNat ≤ l.cap → exec i s = .next t →
    t.cmd = s.cmd ∧ t.srcOff = s.srcOff ∧ t.srcLen = s.srcLen ∧ t.dstCap = s.dstCap ∧
    t.arg0 = s.arg0 ∧ t.arg1 = s.arg1 ∧ t.tabInfo = s.tabInfo ∧ t.inMem = s.inMem ∧ t.sit = s.sit ∧
    t.tab1 = s.tab1 ∧ t.tab2 = s.tab2 ∧ t.doneSeen = s.doneSeen ∧ t.host = s.host ∧ t.reads = s.reads ∧
    t.resets = s.resets ∧ t.starts = s.starts ∧
    (running t = true →
      t.status = s.status ∧ t.errcode = s.errcode ∧ t.errpos = s.errpos ∧ t.srcUsed = s.srcUsed) ∧
    (∀ a, a < s.dstLen.toNat ∨ t.dstLen.toNat ≤ a → Mem.read t.outMem a = Mem.read s.outMem a) ∧
    ((∀ v, i ≠ .lzssLit v) → (∀ n d, i ≠ .lzssSref n d ∧ i ≠ .lzssLref n d ∧ i ≠ .lzssXref n d) →
      (∀ dw, w = .lzssDec dw → dw.wp ≤ 0x4000) → t.win = s.win)

/-- Where LIT, SREF, LREF and XREF write WIN when the window does not slide: the `len` cells from `wp` (one for LIT),
and no other. -/
def Obligations.WindowFrame : Prop :=
  ∀ (i : Instr) (len dist : Nat) (s t : State) (l : Latch) (w : LzssDecWork),
    ((∃ v, i = .lzssLit v) ∧ len = 1) ∨ i ∈ [Instr.lzssSref len dist, .lzssLref len dist, .lzssXref len dist] →
    s.engine = .run l (.lzssDec w) → w.wp + len ≤ 0x4000 → exec i s = .next t →
    (∀ a, a < w.wp ∨ w.wp + len ≤ a → Mem.read t.win a = Mem.read s.win a) ∧
    t.outMem = s.outMem ∧ t.dstLen = s.dstLen

/-- What a command's start leaves unchanged: the operand registers, IN, SIT, WIN, TAB2, and everything of the host's;
TAB1 but for VLC_BUILD and TAB_INFO but for VLC_BUILD and CLEAR, which make TAB_VALID 0 (R233, R106; at the common
check's fault log 23); every OUT byte but OUT[0..1], which LZSS_ENC reserves; and, ignored while BUSY = 1, everything.
Each start counts (log 2) and makes the engine the owner (R47). -/
def Obligations.CommandFrame : Prop :=
  ∀ (i : Instr) (s t : State), isCommand i = true → exec i s = .next t →
    (busy s = true → t = s) ∧
    (busy s = false → t.cmd = commandValue i ∧ t.doneSeen = false ∧ t.starts = s.starts + 1 ∧
      (i ∈ [Instr.vlcBuild, .clear] → tabValid t = false)) ∧
    t.srcOff = s.srcOff ∧ t.srcLen = s.srcLen ∧ t.dstCap = s.dstCap ∧ t.arg0 = s.arg0 ∧ t.arg1 = s.arg1 ∧
    t.inMem = s.inMem ∧ t.sit = s.sit ∧ t.win = s.win ∧ t.tab2 = s.tab2 ∧
    t.host = s.host ∧ t.reads = s.reads ∧ t.resets = s.resets ∧
    (i ≠ .vlcBuild → t.tab1 = s.tab1) ∧
    (i ≠ .vlcBuild → i ≠ .clear → t.tabInfo = s.tabInfo) ∧
    (∀ a, i ≠ .lzssEnc ∨ 2 ≤ a → Mem.read t.outMem a = Mem.read s.outMem a)

/-- R20, R22, R43, R46: a step of the engine, whatever command runs, never changes IN, SIT, CMD or an operand
register, nor anything of the host's, its next access coming one step nearer where one is pending (log 6). -/
def Obligations.EngineKeepsHostMemories : Prop :=
  ∀ (s t : State), step s = .next t →
    (s.host = [] → HostSideKept s t ∧ t.host = []) ∧
    (∀ (e : HostEvent) (rest : List HostEvent), s.host = e :: rest → running s = true → e.delay ≠ 0 →
      HostSideKept s t ∧ t.host = { e with delay := e.delay - 1 } :: rest)

/-! ## The host -/

/-- R10, R14, R47, R48: while the host owns the block a write of an operand register stores the value; a write of any
other register but CMD, a number above 11 included, has no effect. A host read of a register returns its value, 0 above 11;
DST_LEN and SRC_USED only once the host has seen DONE; the read of STATUS that returns DONE hands the results over. -/
def Obligations.HostRegisterAccesses : Prop :=
  ∀ (s : State) (rest : List HostEvent) (r : Nat),
    (∀ v : Reg, busy s = false → s.doneSeen = true → s.host = { delay := 0, op := .writeReg r v } :: rest →
      (r = 4 → step s = .next { s with srcOff := v, host := rest }) ∧
      (r = 5 → step s = .next { s with srcLen := v, host := rest }) ∧
      (r = 6 → step s = .next { s with dstCap := v, host := rest }) ∧
      (r = 9 → step s = .next { s with arg0 := v, host := rest }) ∧
      (r = 10 → step s = .next { s with arg1 := v, host := rest }) ∧
      (r ∈ [1, 2, 3, 7, 8, 11] ∨ 12 ≤ r → step s = .next (s.setHost rest))) ∧
    (s.host = { delay := 0, op := .readReg r } :: rest →
      ((r ≠ 7 ∧ r ≠ 8) ∨ s.doneSeen = true → ∃ t, step s = .next t ∧ t.reads = s.reads ++
        [([s.cmd, s.status, s.errcode, s.errpos, s.srcOff, s.srcLen, s.dstCap, s.dstLen, s.srcUsed, s.arg0, s.arg1,
          s.tabInfo] : List Reg).getD r 0]) ∧
      (r = 1 → ∃ t, step s = .next t ∧ t.doneSeen = (s.doneSeen || s.status.getLsbD 1)) ∧
      (∃ t, step s = .next t ∧ t.engine = s.engine ∧ t.inMem = s.inMem ∧ t.outMem = s.outMem ∧ t.sit = s.sit ∧
        t.host = rest ∧ ∀ q, regValue t q = regValue s q))

/-- R20, R22, R43, R231: while the host owns the block (R47) a write of an IN byte stores it and changes nothing else; a
write of a SIT cell stores it, clears TAB_INFO and changes nothing else. -/
def Obligations.HostMemoryWrites : Prop :=
  ∀ (s : State) (rest : List HostEvent) (a : Nat), busy s = false → s.doneSeen = true →
    (∀ v : Byte, a < Config.inCap → s.host = { delay := 0, op := .writeIn a v } :: rest →
      ∃ t, step s = .next t ∧ Mem.read t.inMem a = some v ∧
        (∀ b, b ≠ a → Mem.read t.inMem b = Mem.read s.inMem b) ∧
        t = { s with inMem := t.inMem, host := rest }) ∧
    (∀ v : Word, a < 8192 → s.host = { delay := 0, op := .writeSit a v } :: rest →
      ∃ t, step s = .next t ∧ t.tabInfo = 0 ∧ Mem.read t.sit a = some v ∧
        (∀ b, b ≠ a → Mem.read t.sit b = Mem.read s.sit b) ∧
        t = { s with sit := t.sit, tabInfo := 0, host := rest })

/-- R20 to R22, R43, R47, R48: a host read of an IN byte or a SIT cell returns it, the one the host wrote or an
unspecified one that stays (log 2), at any time, BUSY or not (the model's reading of R47: log 8). Once the host has seen
DONE, its read of an OUT byte below DST_LEN returns that byte if the command did not fault, at or above DST_LEN an
unspecified one that stays; before that an unspecified value (log 2). No read changes anything. Outside its aperture an
access stops the machine (the model's choice: log 10). -/
def Obligations.HostMemoryReads : Prop :=
  ∀ (s : State) (rest : List HostEvent) (a : Nat),
    (s.host = { delay := 0, op := .readIn a } :: rest →
      (∀ b : Byte, a < Config.inCap → b = (Mem.read s.inMem a).getD (Config.unspecIn s.resets a) →
        step s = .next { s with reads := s.reads ++ [b.setWidth 32], host := rest }) ∧
      (Config.inCap ≤ a → step s = .fault .hostOutsideAperture)) ∧
    (s.host = { delay := 0, op := .readSit a } :: rest →
      (∀ v : Word, a < 8192 → v = (Mem.read s.sit a).getD (Config.unspecSit s.resets a) →
        step s = .next { s with reads := s.reads ++ [v], host := rest }) ∧
      (8192 ≤ a → step s = .fault .hostOutsideAperture)) ∧
    (s.host = { delay := 0, op := .readOut a } :: rest →
      (∀ b : Byte, a < Config.outCap → s.doneSeen = true → errBit s = false → a < s.dstLen.toNat →
        Mem.read s.outMem a = some b →
        step s = .next { s with reads := s.reads ++ [b.setWidth 32], host := rest }) ∧
      (a < Config.outCap → s.doneSeen = true → s.dstLen.toNat ≤ a →
        step s = .next { s with
          reads := s.reads ++ [(Config.unspecOut s.resets s.starts a).setWidth 32], host := rest }) ∧
      (a < Config.outCap → s.doneSeen = false → ∃ b : Byte,
        step s = .next { s with reads := s.reads ++ [b.setWidth 32], host := rest }) ∧
      (Config.outCap ≤ a → step s = .fault .hostOutsideAperture))

/-! ## Invariants -/

/-- The reset state meets every invariant. -/
def Obligations.ResetMeetsTheInvariants : Prop :=
  MemOk State.reset ∧ CtlOk State.reset ∧ TabOk State.reset ∧ LzssDecInv State.reset ∧ LzssEncInv State.reset ∧
    LzwInv State.reset ∧ WaveletInv State.reset

/-- Every step keeps every store in canonical form. -/
def Obligations.StepKeepsMemoryCanonical : Prop :=
  ∀ s t : State, MemOk s → step s = .next t → MemOk t

/-- R12, R13, R101, R102, R303: every step keeps the control invariant: STATUS is legal and agrees with the engine,
ERRCODE and ERRPOS are 0 unless ERR is set, the latched operands are the registers, the region is written, and
DST_LEN is within the capacity while a command runs. -/
def Obligations.StepKeepsControl : Prop :=
  ∀ s t : State, CtlOk s → step s = .next t → CtlOk t

/-- R230, R231, R233, R305, R306: every step keeps the table invariant: TAB_VALID is set only over tables of one
completed VLC_BUILD on the SIT that still stands. -/
def Obligations.StepKeepsTables : Prop :=
  ∀ s t : State, TabOk s → step s = .next t → TabOk t

/-- R28, R134, R135: every step keeps the window invariant: every byte below `wp` was written, `wp` is at most 0x4000
between tokens, and more than 0x2000 bytes of history remain after a slide. -/
def Obligations.StepKeepsWindow : Prop :=
  ∀ s t : State, LzssDecInv s → step s = .next t → LzssDecInv t

/-- R24, R145, R146, R160, R163, R164, R170, R210 to R213: every step keeps the working-state invariants: the bit writer
holds fewer than 16 bits and its reserved slot lies below DST_LEN; LZW widths are 9 to 12, at most 2^M codes are
assigned, no string is empty, every pending or previous code is one the dictionary has; the wavelet's tile size
reaches the plane's width by doublings and every cell is loaded. -/
def Obligations.StepKeepsWorkingState : Prop :=
  ∀ s t : State, step s = .next t →
    (LzssEncInv s → LzssEncInv t) ∧ (LzwInv s → LzwInv t) ∧ (WaveletInv s → WaveletInv t)

/-! ## The whole machine -/

/-- R168, R169, R246, R303: from a legal state a step stops only where the spec asks for it or the platform decides:
no step meets a token its command cannot fetch. -/
def Obligations.NoUnexpectedStop : Prop :=
  ∀ s : State, CtlOk s → TabOk s → LzwInv s → expectedStop (step s) = true

/-- R311: every command ends. With no host access pending, a running command is over, with DONE set and the engine
idle, after at most `stepsLeft` steps (what counts as a step is log 7); or, a VLC_BUILD or VLC_DECODE, it is refused at
a cell of SIT it needs that was never written (R303). -/
def Obligations.EveryCommandEnds : Prop :=
  ∀ (s : State) (l : Latch) (w : Work), s.host = [] → s.engine = .run l w → TabOk s → LzwInv s → WaveletInv s →
    ∃ k, k ≤ stepsLeft s l w ∧
      ((∃ t, Host.Core.run core k s = .next t ∧ t.engine = .idle ∧ doneBit t = true) ∨
        (((∃ v, w = .vlcBuild v) ∨ ∃ v, w = .vlcDecode v) ∧ Host.Core.run core k s = .refused .unwrittenSit))

/-- R23, R29, R135: what an earlier command left in WIN cannot be observed. Two states that differ only in WIN, and
there only in bytes the running command has not written, step to states that again differ only so. -/
def Obligations.StaleWindowIsUnobservable : Prop :=
  ∀ s s' t : State, LzssDecInv s → SameButStaleWin s s' → step s = .next t →
    ∃ t', step s' = .next t' ∧ SameButStaleWin t t'
end

