-- ==== Sys2Proof/Laws/Bits.lean ====
section
/-! SUPPORT. Bit strings (R41): their lengths, and that reading back what was written gives it again. -/

namespace Sys2Proof

@[simp] theorem natToBits_length (v w : Nat) : (natToBits v w).length = w := by
  induction w generalizing v with
  | zero => rfl
  | succ w ih => simp [natToBits, ih]

theorem bitsToNat_lt (bs : List Bool) : bitsToNat bs < 2 ^ bs.length := by
  induction bs with
  | nil => simp [bitsToNat]
  | cons b bs ih =>
    have hb : b.toNat ≤ 1 := by cases b <;> decide
    simp only [bitsToNat, List.length_cons, Nat.pow_succ]
    omega

theorem bitsToNat_natToBits (v w : Nat) : bitsToNat (natToBits v w) = v % 2 ^ w := by
  induction w generalizing v with
  | zero => simp [natToBits, bitsToNat, Nat.mod_one]
  | succ w ih =>
    have hb : (v % 2 == 1).toNat = v % 2 := by
      rcases Nat.mod_two_eq_zero_or_one v with h | h <;> simp [h]
    rw [natToBits, bitsToNat, ih, hb, Nat.pow_succ, Nat.mul_comm (2 ^ w) 2, Nat.mod_mul]

theorem natToBits_bitsToNat (bs : List Bool) : natToBits (bitsToNat bs) bs.length = bs := by
  induction bs with
  | nil => rfl
  | cons b bs ih =>
    have hmod : (b.toNat + 2 * bitsToNat bs) % 2 = b.toNat := by cases b <;> simp
    have hdiv : (b.toNat + 2 * bitsToNat bs) / 2 = bitsToNat bs := by
      have hb : b.toNat ≤ 1 := by cases b <;> decide
      omega
    simp only [bitsToNat, List.length_cons, natToBits, hmod, hdiv, ih]
    cases b <;> rfl

end Sys2Proof
end

