-- ==== Sys2Proof/Laws/State.lean ====
section
/-! SUPPORT. One lemma per field per named update of the state, so that no proof unfolds a record update. -/

namespace Sys2Proof.Machine

/-! ## setRun -/

@[simp] theorem setRun_cmd (s : State) (l : Latch) (w : Work) : (s.setRun l w).cmd = s.cmd := rfl
@[simp] theorem setRun_status (s : State) (l : Latch) (w : Work) : (s.setRun l w).status = s.status := rfl
@[simp] theorem setRun_errcode (s : State) (l : Latch) (w : Work) : (s.setRun l w).errcode = s.errcode := rfl
@[simp] theorem setRun_errpos (s : State) (l : Latch) (w : Work) : (s.setRun l w).errpos = s.errpos := rfl
@[simp] theorem setRun_srcOff (s : State) (l : Latch) (w : Work) : (s.setRun l w).srcOff = s.srcOff := rfl
@[simp] theorem setRun_srcLen (s : State) (l : Latch) (w : Work) : (s.setRun l w).srcLen = s.srcLen := rfl
@[simp] theorem setRun_dstCap (s : State) (l : Latch) (w : Work) : (s.setRun l w).dstCap = s.dstCap := rfl
@[simp] theorem setRun_dstLen (s : State) (l : Latch) (w : Work) : (s.setRun l w).dstLen = s.dstLen := rfl
@[simp] theorem setRun_srcUsed (s : State) (l : Latch) (w : Work) : (s.setRun l w).srcUsed = s.srcUsed := rfl
@[simp] theorem setRun_arg0 (s : State) (l : Latch) (w : Work) : (s.setRun l w).arg0 = s.arg0 := rfl
@[simp] theorem setRun_arg1 (s : State) (l : Latch) (w : Work) : (s.setRun l w).arg1 = s.arg1 := rfl
@[simp] theorem setRun_tabInfo (s : State) (l : Latch) (w : Work) : (s.setRun l w).tabInfo = s.tabInfo := rfl
@[simp] theorem setRun_inMem (s : State) (l : Latch) (w : Work) : (s.setRun l w).inMem = s.inMem := rfl
@[simp] theorem setRun_outMem (s : State) (l : Latch) (w : Work) : (s.setRun l w).outMem = s.outMem := rfl
@[simp] theorem setRun_sit (s : State) (l : Latch) (w : Work) : (s.setRun l w).sit = s.sit := rfl
@[simp] theorem setRun_win (s : State) (l : Latch) (w : Work) : (s.setRun l w).win = s.win := rfl
@[simp] theorem setRun_tab1 (s : State) (l : Latch) (w : Work) : (s.setRun l w).tab1 = s.tab1 := rfl
@[simp] theorem setRun_tab2 (s : State) (l : Latch) (w : Work) : (s.setRun l w).tab2 = s.tab2 := rfl
@[simp] theorem setRun_engine (s : State) (l : Latch) (w : Work) : (s.setRun l w).engine = .run l w := rfl
@[simp] theorem setRun_doneSeen (s : State) (l : Latch) (w : Work) : (s.setRun l w).doneSeen = s.doneSeen := rfl
@[simp] theorem setRun_host (s : State) (l : Latch) (w : Work) : (s.setRun l w).host = s.host := rfl
@[simp] theorem setRun_reads (s : State) (l : Latch) (w : Work) : (s.setRun l w).reads = s.reads := rfl
@[simp] theorem setRun_resets (s : State) (l : Latch) (w : Work) : (s.setRun l w).resets = s.resets := rfl
@[simp] theorem setRun_starts (s : State) (l : Latch) (w : Work) : (s.setRun l w).starts = s.starts := rfl

/-! ## begin -/

@[simp] theorem begin_cmd (s : State) (c : Reg) : (s.begin c).cmd = c := rfl
@[simp] theorem begin_status (s : State) (c : Reg) : (s.begin c).status = statusBusy := rfl
@[simp] theorem begin_errcode (s : State) (c : Reg) : (s.begin c).errcode = 0 := rfl
@[simp] theorem begin_errpos (s : State) (c : Reg) : (s.begin c).errpos = 0 := rfl
@[simp] theorem begin_srcOff (s : State) (c : Reg) : (s.begin c).srcOff = s.srcOff := rfl
@[simp] theorem begin_srcLen (s : State) (c : Reg) : (s.begin c).srcLen = s.srcLen := rfl
@[simp] theorem begin_dstCap (s : State) (c : Reg) : (s.begin c).dstCap = s.dstCap := rfl
@[simp] theorem begin_dstLen (s : State) (c : Reg) : (s.begin c).dstLen = 0 := rfl
@[simp] theorem begin_srcUsed (s : State) (c : Reg) : (s.begin c).srcUsed = 0 := rfl
@[simp] theorem begin_arg0 (s : State) (c : Reg) : (s.begin c).arg0 = s.arg0 := rfl
@[simp] theorem begin_arg1 (s : State) (c : Reg) : (s.begin c).arg1 = s.arg1 := rfl
@[simp] theorem begin_tabInfo (s : State) (c : Reg) : (s.begin c).tabInfo = s.tabInfo := rfl
@[simp] theorem begin_inMem (s : State) (c : Reg) : (s.begin c).inMem = s.inMem := rfl
@[simp] theorem begin_outMem (s : State) (c : Reg) : (s.begin c).outMem = s.outMem := rfl
@[simp] theorem begin_sit (s : State) (c : Reg) : (s.begin c).sit = s.sit := rfl
@[simp] theorem begin_win (s : State) (c : Reg) : (s.begin c).win = s.win := rfl
@[simp] theorem begin_tab1 (s : State) (c : Reg) : (s.begin c).tab1 = s.tab1 := rfl
@[simp] theorem begin_tab2 (s : State) (c : Reg) : (s.begin c).tab2 = s.tab2 := rfl
@[simp] theorem begin_engine (s : State) (c : Reg) : (s.begin c).engine = s.engine := rfl
@[simp] theorem begin_doneSeen (s : State) (c : Reg) : (s.begin c).doneSeen = false := rfl
@[simp] theorem begin_host (s : State) (c : Reg) : (s.begin c).host = s.host := rfl
@[simp] theorem begin_reads (s : State) (c : Reg) : (s.begin c).reads = s.reads := rfl
@[simp] theorem begin_resets (s : State) (c : Reg) : (s.begin c).resets = s.resets := rfl
@[simp] theorem begin_starts (s : State) (c : Reg) : (s.begin c).starts = s.starts + 1 := rfl

/-! ## raise -/

@[simp] theorem raise_cmd (f : BlockFault) (pos : Nat) (s : State) : (raise f pos s).cmd = s.cmd := rfl
@[simp] theorem raise_status (f : BlockFault) (pos : Nat) (s : State) : (raise f pos s).status = statusFaulted := rfl
@[simp] theorem raise_errcode (f : BlockFault) (pos : Nat) (s : State) : (raise f pos s).errcode = BitVec.ofNat _ f.code := rfl
@[simp] theorem raise_errpos (f : BlockFault) (pos : Nat) (s : State) : (raise f pos s).errpos = BitVec.ofNat _ pos := rfl
@[simp] theorem raise_srcOff (f : BlockFault) (pos : Nat) (s : State) : (raise f pos s).srcOff = s.srcOff := rfl
@[simp] theorem raise_srcLen (f : BlockFault) (pos : Nat) (s : State) : (raise f pos s).srcLen = s.srcLen := rfl
@[simp] theorem raise_dstCap (f : BlockFault) (pos : Nat) (s : State) : (raise f pos s).dstCap = s.dstCap := rfl
@[simp] theorem raise_dstLen (f : BlockFault) (pos : Nat) (s : State) : (raise f pos s).dstLen = s.dstLen := rfl
@[simp] theorem raise_srcUsed (f : BlockFault) (pos : Nat) (s : State) : (raise f pos s).srcUsed = s.srcUsed := rfl
@[simp] theorem raise_arg0 (f : BlockFault) (pos : Nat) (s : State) : (raise f pos s).arg0 = s.arg0 := rfl
@[simp] theorem raise_arg1 (f : BlockFault) (pos : Nat) (s : State) : (raise f pos s).arg1 = s.arg1 := rfl
@[simp] theorem raise_tabInfo (f : BlockFault) (pos : Nat) (s : State) : (raise f pos s).tabInfo = s.tabInfo := rfl
@[simp] theorem raise_inMem (f : BlockFault) (pos : Nat) (s : State) : (raise f pos s).inMem = s.inMem := rfl
@[simp] theorem raise_outMem (f : BlockFault) (pos : Nat) (s : State) : (raise f pos s).outMem = s.outMem := rfl
@[simp] theorem raise_sit (f : BlockFault) (pos : Nat) (s : State) : (raise f pos s).sit = s.sit := rfl
@[simp] theorem raise_win (f : BlockFault) (pos : Nat) (s : State) : (raise f pos s).win = s.win := rfl
@[simp] theorem raise_tab1 (f : BlockFault) (pos : Nat) (s : State) : (raise f pos s).tab1 = s.tab1 := rfl
@[simp] theorem raise_tab2 (f : BlockFault) (pos : Nat) (s : State) : (raise f pos s).tab2 = s.tab2 := rfl
@[simp] theorem raise_engine (f : BlockFault) (pos : Nat) (s : State) : (raise f pos s).engine = .idle := rfl
@[simp] theorem raise_doneSeen (f : BlockFault) (pos : Nat) (s : State) : (raise f pos s).doneSeen = s.doneSeen := rfl
@[simp] theorem raise_host (f : BlockFault) (pos : Nat) (s : State) : (raise f pos s).host = s.host := rfl
@[simp] theorem raise_reads (f : BlockFault) (pos : Nat) (s : State) : (raise f pos s).reads = s.reads := rfl
@[simp] theorem raise_resets (f : BlockFault) (pos : Nat) (s : State) : (raise f pos s).resets = s.resets := rfl
@[simp] theorem raise_starts (f : BlockFault) (pos : Nat) (s : State) : (raise f pos s).starts = s.starts := rfl

/-! ## finish -/

@[simp] theorem finish_cmd (flags : Reg) (used : Nat) (s : State) : (finish flags used s).cmd = s.cmd := rfl
@[simp] theorem finish_status (flags : Reg) (used : Nat) (s : State) : (finish flags used s).status = statusFinished flags := rfl
@[simp] theorem finish_errcode (flags : Reg) (used : Nat) (s : State) : (finish flags used s).errcode = s.errcode := rfl
@[simp] theorem finish_errpos (flags : Reg) (used : Nat) (s : State) : (finish flags used s).errpos = s.errpos := rfl
@[simp] theorem finish_srcOff (flags : Reg) (used : Nat) (s : State) : (finish flags used s).srcOff = s.srcOff := rfl
@[simp] theorem finish_srcLen (flags : Reg) (used : Nat) (s : State) : (finish flags used s).srcLen = s.srcLen := rfl
@[simp] theorem finish_dstCap (flags : Reg) (used : Nat) (s : State) : (finish flags used s).dstCap = s.dstCap := rfl
@[simp] theorem finish_dstLen (flags : Reg) (used : Nat) (s : State) : (finish flags used s).dstLen = s.dstLen := rfl
@[simp] theorem finish_srcUsed (flags : Reg) (used : Nat) (s : State) : (finish flags used s).srcUsed = BitVec.ofNat _ used := rfl
@[simp] theorem finish_arg0 (flags : Reg) (used : Nat) (s : State) : (finish flags used s).arg0 = s.arg0 := rfl
@[simp] theorem finish_arg1 (flags : Reg) (used : Nat) (s : State) : (finish flags used s).arg1 = s.arg1 := rfl
@[simp] theorem finish_tabInfo (flags : Reg) (used : Nat) (s : State) : (finish flags used s).tabInfo = s.tabInfo := rfl
@[simp] theorem finish_inMem (flags : Reg) (used : Nat) (s : State) : (finish flags used s).inMem = s.inMem := rfl
@[simp] theorem finish_outMem (flags : Reg) (used : Nat) (s : State) : (finish flags used s).outMem = s.outMem := rfl
@[simp] theorem finish_sit (flags : Reg) (used : Nat) (s : State) : (finish flags used s).sit = s.sit := rfl
@[simp] theorem finish_win (flags : Reg) (used : Nat) (s : State) : (finish flags used s).win = s.win := rfl
@[simp] theorem finish_tab1 (flags : Reg) (used : Nat) (s : State) : (finish flags used s).tab1 = s.tab1 := rfl
@[simp] theorem finish_tab2 (flags : Reg) (used : Nat) (s : State) : (finish flags used s).tab2 = s.tab2 := rfl
@[simp] theorem finish_engine (flags : Reg) (used : Nat) (s : State) : (finish flags used s).engine = .idle := rfl
@[simp] theorem finish_doneSeen (flags : Reg) (used : Nat) (s : State) : (finish flags used s).doneSeen = s.doneSeen := rfl
@[simp] theorem finish_host (flags : Reg) (used : Nat) (s : State) : (finish flags used s).host = s.host := rfl
@[simp] theorem finish_reads (flags : Reg) (used : Nat) (s : State) : (finish flags used s).reads = s.reads := rfl
@[simp] theorem finish_resets (flags : Reg) (used : Nat) (s : State) : (finish flags used s).resets = s.resets := rfl
@[simp] theorem finish_starts (flags : Reg) (used : Nat) (s : State) : (finish flags used s).starts = s.starts := rfl

/-! ## putOut -/

@[simp] theorem putOut_cmd (s : State) (b : Byte) : (s.putOut b).cmd = s.cmd := rfl
@[simp] theorem putOut_status (s : State) (b : Byte) : (s.putOut b).status = s.status := rfl
@[simp] theorem putOut_errcode (s : State) (b : Byte) : (s.putOut b).errcode = s.errcode := rfl
@[simp] theorem putOut_errpos (s : State) (b : Byte) : (s.putOut b).errpos = s.errpos := rfl
@[simp] theorem putOut_srcOff (s : State) (b : Byte) : (s.putOut b).srcOff = s.srcOff := rfl
@[simp] theorem putOut_srcLen (s : State) (b : Byte) : (s.putOut b).srcLen = s.srcLen := rfl
@[simp] theorem putOut_dstCap (s : State) (b : Byte) : (s.putOut b).dstCap = s.dstCap := rfl
@[simp] theorem putOut_dstLen (s : State) (b : Byte) : (s.putOut b).dstLen = s.dstLen + BitVec.ofNat _ 1 := rfl
@[simp] theorem putOut_srcUsed (s : State) (b : Byte) : (s.putOut b).srcUsed = s.srcUsed := rfl
@[simp] theorem putOut_arg0 (s : State) (b : Byte) : (s.putOut b).arg0 = s.arg0 := rfl
@[simp] theorem putOut_arg1 (s : State) (b : Byte) : (s.putOut b).arg1 = s.arg1 := rfl
@[simp] theorem putOut_tabInfo (s : State) (b : Byte) : (s.putOut b).tabInfo = s.tabInfo := rfl
@[simp] theorem putOut_inMem (s : State) (b : Byte) : (s.putOut b).inMem = s.inMem := rfl
@[simp] theorem putOut_outMem (s : State) (b : Byte) : (s.putOut b).outMem = Mem.write s.outMem s.dstLen.toNat b := rfl
@[simp] theorem putOut_sit (s : State) (b : Byte) : (s.putOut b).sit = s.sit := rfl
@[simp] theorem putOut_win (s : State) (b : Byte) : (s.putOut b).win = s.win := rfl
@[simp] theorem putOut_tab1 (s : State) (b : Byte) : (s.putOut b).tab1 = s.tab1 := rfl
@[simp] theorem putOut_tab2 (s : State) (b : Byte) : (s.putOut b).tab2 = s.tab2 := rfl
@[simp] theorem putOut_engine (s : State) (b : Byte) : (s.putOut b).engine = s.engine := rfl
@[simp] theorem putOut_doneSeen (s : State) (b : Byte) : (s.putOut b).doneSeen = s.doneSeen := rfl
@[simp] theorem putOut_host (s : State) (b : Byte) : (s.putOut b).host = s.host := rfl
@[simp] theorem putOut_reads (s : State) (b : Byte) : (s.putOut b).reads = s.reads := rfl
@[simp] theorem putOut_resets (s : State) (b : Byte) : (s.putOut b).resets = s.resets := rfl
@[simp] theorem putOut_starts (s : State) (b : Byte) : (s.putOut b).starts = s.starts := rfl

/-! ## pushRead -/

@[simp] theorem pushRead_cmd (s : State) (v : Reg) : (s.pushRead v).cmd = s.cmd := rfl
@[simp] theorem pushRead_status (s : State) (v : Reg) : (s.pushRead v).status = s.status := rfl
@[simp] theorem pushRead_errcode (s : State) (v : Reg) : (s.pushRead v).errcode = s.errcode := rfl
@[simp] theorem pushRead_errpos (s : State) (v : Reg) : (s.pushRead v).errpos = s.errpos := rfl
@[simp] theorem pushRead_srcOff (s : State) (v : Reg) : (s.pushRead v).srcOff = s.srcOff := rfl
@[simp] theorem pushRead_srcLen (s : State) (v : Reg) : (s.pushRead v).srcLen = s.srcLen := rfl
@[simp] theorem pushRead_dstCap (s : State) (v : Reg) : (s.pushRead v).dstCap = s.dstCap := rfl
@[simp] theorem pushRead_dstLen (s : State) (v : Reg) : (s.pushRead v).dstLen = s.dstLen := rfl
@[simp] theorem pushRead_srcUsed (s : State) (v : Reg) : (s.pushRead v).srcUsed = s.srcUsed := rfl
@[simp] theorem pushRead_arg0 (s : State) (v : Reg) : (s.pushRead v).arg0 = s.arg0 := rfl
@[simp] theorem pushRead_arg1 (s : State) (v : Reg) : (s.pushRead v).arg1 = s.arg1 := rfl
@[simp] theorem pushRead_tabInfo (s : State) (v : Reg) : (s.pushRead v).tabInfo = s.tabInfo := rfl
@[simp] theorem pushRead_inMem (s : State) (v : Reg) : (s.pushRead v).inMem = s.inMem := rfl
@[simp] theorem pushRead_outMem (s : State) (v : Reg) : (s.pushRead v).outMem = s.outMem := rfl
@[simp] theorem pushRead_sit (s : State) (v : Reg) : (s.pushRead v).sit = s.sit := rfl
@[simp] theorem pushRead_win (s : State) (v : Reg) : (s.pushRead v).win = s.win := rfl
@[simp] theorem pushRead_tab1 (s : State) (v : Reg) : (s.pushRead v).tab1 = s.tab1 := rfl
@[simp] theorem pushRead_tab2 (s : State) (v : Reg) : (s.pushRead v).tab2 = s.tab2 := rfl
@[simp] theorem pushRead_engine (s : State) (v : Reg) : (s.pushRead v).engine = s.engine := rfl
@[simp] theorem pushRead_doneSeen (s : State) (v : Reg) : (s.pushRead v).doneSeen = s.doneSeen := rfl
@[simp] theorem pushRead_host (s : State) (v : Reg) : (s.pushRead v).host = s.host := rfl
@[simp] theorem pushRead_reads (s : State) (v : Reg) : (s.pushRead v).reads = s.reads ++ [v] := rfl
@[simp] theorem pushRead_resets (s : State) (v : Reg) : (s.pushRead v).resets = s.resets := rfl
@[simp] theorem pushRead_starts (s : State) (v : Reg) : (s.pushRead v).starts = s.starts := rfl

/-! ## pushFree -/

@[simp] theorem pushFree_cmd (s : State) : (s.pushFree).cmd = s.cmd := rfl
@[simp] theorem pushFree_status (s : State) : (s.pushFree).status = s.status := rfl
@[simp] theorem pushFree_errcode (s : State) : (s.pushFree).errcode = s.errcode := rfl
@[simp] theorem pushFree_errpos (s : State) : (s.pushFree).errpos = s.errpos := rfl
@[simp] theorem pushFree_srcOff (s : State) : (s.pushFree).srcOff = s.srcOff := rfl
@[simp] theorem pushFree_srcLen (s : State) : (s.pushFree).srcLen = s.srcLen := rfl
@[simp] theorem pushFree_dstCap (s : State) : (s.pushFree).dstCap = s.dstCap := rfl
@[simp] theorem pushFree_dstLen (s : State) : (s.pushFree).dstLen = s.dstLen := rfl
@[simp] theorem pushFree_srcUsed (s : State) : (s.pushFree).srcUsed = s.srcUsed := rfl
@[simp] theorem pushFree_arg0 (s : State) : (s.pushFree).arg0 = s.arg0 := rfl
@[simp] theorem pushFree_arg1 (s : State) : (s.pushFree).arg1 = s.arg1 := rfl
@[simp] theorem pushFree_tabInfo (s : State) : (s.pushFree).tabInfo = s.tabInfo := rfl
@[simp] theorem pushFree_inMem (s : State) : (s.pushFree).inMem = s.inMem := rfl
@[simp] theorem pushFree_outMem (s : State) : (s.pushFree).outMem = s.outMem := rfl
@[simp] theorem pushFree_sit (s : State) : (s.pushFree).sit = s.sit := rfl
@[simp] theorem pushFree_win (s : State) : (s.pushFree).win = s.win := rfl
@[simp] theorem pushFree_tab1 (s : State) : (s.pushFree).tab1 = s.tab1 := rfl
@[simp] theorem pushFree_tab2 (s : State) : (s.pushFree).tab2 = s.tab2 := rfl
@[simp] theorem pushFree_engine (s : State) : (s.pushFree).engine = s.engine := rfl
@[simp] theorem pushFree_doneSeen (s : State) : (s.pushFree).doneSeen = s.doneSeen := rfl
@[simp] theorem pushFree_host (s : State) : (s.pushFree).host = s.host := rfl
@[simp] theorem pushFree_reads (s : State) : (s.pushFree).reads = s.reads ++ [Config.unspecRead s.reads.length] := rfl
@[simp] theorem pushFree_resets (s : State) : (s.pushFree).resets = s.resets := rfl
@[simp] theorem pushFree_starts (s : State) : (s.pushFree).starts = s.starts := rfl

/-! ## setHost -/

@[simp] theorem setHost_cmd (s : State) (h : List HostEvent) : (s.setHost h).cmd = s.cmd := rfl
@[simp] theorem setHost_status (s : State) (h : List HostEvent) : (s.setHost h).status = s.status := rfl
@[simp] theorem setHost_errcode (s : State) (h : List HostEvent) : (s.setHost h).errcode = s.errcode := rfl
@[simp] theorem setHost_errpos (s : State) (h : List HostEvent) : (s.setHost h).errpos = s.errpos := rfl
@[simp] theorem setHost_srcOff (s : State) (h : List HostEvent) : (s.setHost h).srcOff = s.srcOff := rfl
@[simp] theorem setHost_srcLen (s : State) (h : List HostEvent) : (s.setHost h).srcLen = s.srcLen := rfl
@[simp] theorem setHost_dstCap (s : State) (h : List HostEvent) : (s.setHost h).dstCap = s.dstCap := rfl
@[simp] theorem setHost_dstLen (s : State) (h : List HostEvent) : (s.setHost h).dstLen = s.dstLen := rfl
@[simp] theorem setHost_srcUsed (s : State) (h : List HostEvent) : (s.setHost h).srcUsed = s.srcUsed := rfl
@[simp] theorem setHost_arg0 (s : State) (h : List HostEvent) : (s.setHost h).arg0 = s.arg0 := rfl
@[simp] theorem setHost_arg1 (s : State) (h : List HostEvent) : (s.setHost h).arg1 = s.arg1 := rfl
@[simp] theorem setHost_tabInfo (s : State) (h : List HostEvent) : (s.setHost h).tabInfo = s.tabInfo := rfl
@[simp] theorem setHost_inMem (s : State) (h : List HostEvent) : (s.setHost h).inMem = s.inMem := rfl
@[simp] theorem setHost_outMem (s : State) (h : List HostEvent) : (s.setHost h).outMem = s.outMem := rfl
@[simp] theorem setHost_sit (s : State) (h : List HostEvent) : (s.setHost h).sit = s.sit := rfl
@[simp] theorem setHost_win (s : State) (h : List HostEvent) : (s.setHost h).win = s.win := rfl
@[simp] theorem setHost_tab1 (s : State) (h : List HostEvent) : (s.setHost h).tab1 = s.tab1 := rfl
@[simp] theorem setHost_tab2 (s : State) (h : List HostEvent) : (s.setHost h).tab2 = s.tab2 := rfl
@[simp] theorem setHost_engine (s : State) (h : List HostEvent) : (s.setHost h).engine = s.engine := rfl
@[simp] theorem setHost_doneSeen (s : State) (h : List HostEvent) : (s.setHost h).doneSeen = s.doneSeen := rfl
@[simp] theorem setHost_host (s : State) (h : List HostEvent) : (s.setHost h).host = h := rfl
@[simp] theorem setHost_reads (s : State) (h : List HostEvent) : (s.setHost h).reads = s.reads := rfl
@[simp] theorem setHost_resets (s : State) (h : List HostEvent) : (s.setHost h).resets = s.resets := rfl
@[simp] theorem setHost_starts (s : State) (h : List HostEvent) : (s.setHost h).starts = s.starts := rfl

/-! ## setWin -/

@[simp] theorem setWin_cmd (s : State) (m : Memory) : (s.setWin m).cmd = s.cmd := rfl
@[simp] theorem setWin_status (s : State) (m : Memory) : (s.setWin m).status = s.status := rfl
@[simp] theorem setWin_errcode (s : State) (m : Memory) : (s.setWin m).errcode = s.errcode := rfl
@[simp] theorem setWin_errpos (s : State) (m : Memory) : (s.setWin m).errpos = s.errpos := rfl
@[simp] theorem setWin_srcOff (s : State) (m : Memory) : (s.setWin m).srcOff = s.srcOff := rfl
@[simp] theorem setWin_srcLen (s : State) (m : Memory) : (s.setWin m).srcLen = s.srcLen := rfl
@[simp] theorem setWin_dstCap (s : State) (m : Memory) : (s.setWin m).dstCap = s.dstCap := rfl
@[simp] theorem setWin_dstLen (s : State) (m : Memory) : (s.setWin m).dstLen = s.dstLen := rfl
@[simp] theorem setWin_srcUsed (s : State) (m : Memory) : (s.setWin m).srcUsed = s.srcUsed := rfl
@[simp] theorem setWin_arg0 (s : State) (m : Memory) : (s.setWin m).arg0 = s.arg0 := rfl
@[simp] theorem setWin_arg1 (s : State) (m : Memory) : (s.setWin m).arg1 = s.arg1 := rfl
@[simp] theorem setWin_tabInfo (s : State) (m : Memory) : (s.setWin m).tabInfo = s.tabInfo := rfl
@[simp] theorem setWin_inMem (s : State) (m : Memory) : (s.setWin m).inMem = s.inMem := rfl
@[simp] theorem setWin_outMem (s : State) (m : Memory) : (s.setWin m).outMem = s.outMem := rfl
@[simp] theorem setWin_sit (s : State) (m : Memory) : (s.setWin m).sit = s.sit := rfl
@[simp] theorem setWin_win (s : State) (m : Memory) : (s.setWin m).win = m := rfl
@[simp] theorem setWin_tab1 (s : State) (m : Memory) : (s.setWin m).tab1 = s.tab1 := rfl
@[simp] theorem setWin_tab2 (s : State) (m : Memory) : (s.setWin m).tab2 = s.tab2 := rfl
@[simp] theorem setWin_engine (s : State) (m : Memory) : (s.setWin m).engine = s.engine := rfl
@[simp] theorem setWin_doneSeen (s : State) (m : Memory) : (s.setWin m).doneSeen = s.doneSeen := rfl
@[simp] theorem setWin_host (s : State) (m : Memory) : (s.setWin m).host = s.host := rfl
@[simp] theorem setWin_reads (s : State) (m : Memory) : (s.setWin m).reads = s.reads := rfl
@[simp] theorem setWin_resets (s : State) (m : Memory) : (s.setWin m).resets = s.resets := rfl
@[simp] theorem setWin_starts (s : State) (m : Memory) : (s.setWin m).starts = s.starts := rfl

/-! ## setOut -/

@[simp] theorem setOut_cmd (s : State) (m : Memory) : (s.setOut m).cmd = s.cmd := rfl
@[simp] theorem setOut_status (s : State) (m : Memory) : (s.setOut m).status = s.status := rfl
@[simp] theorem setOut_errcode (s : State) (m : Memory) : (s.setOut m).errcode = s.errcode := rfl
@[simp] theorem setOut_errpos (s : State) (m : Memory) : (s.setOut m).errpos = s.errpos := rfl
@[simp] theorem setOut_srcOff (s : State) (m : Memory) : (s.setOut m).srcOff = s.srcOff := rfl
@[simp] theorem setOut_srcLen (s : State) (m : Memory) : (s.setOut m).srcLen = s.srcLen := rfl
@[simp] theorem setOut_dstCap (s : State) (m : Memory) : (s.setOut m).dstCap = s.dstCap := rfl
@[simp] theorem setOut_dstLen (s : State) (m : Memory) : (s.setOut m).dstLen = s.dstLen := rfl
@[simp] theorem setOut_srcUsed (s : State) (m : Memory) : (s.setOut m).srcUsed = s.srcUsed := rfl
@[simp] theorem setOut_arg0 (s : State) (m : Memory) : (s.setOut m).arg0 = s.arg0 := rfl
@[simp] theorem setOut_arg1 (s : State) (m : Memory) : (s.setOut m).arg1 = s.arg1 := rfl
@[simp] theorem setOut_tabInfo (s : State) (m : Memory) : (s.setOut m).tabInfo = s.tabInfo := rfl
@[simp] theorem setOut_inMem (s : State) (m : Memory) : (s.setOut m).inMem = s.inMem := rfl
@[simp] theorem setOut_outMem (s : State) (m : Memory) : (s.setOut m).outMem = m := rfl
@[simp] theorem setOut_sit (s : State) (m : Memory) : (s.setOut m).sit = s.sit := rfl
@[simp] theorem setOut_win (s : State) (m : Memory) : (s.setOut m).win = s.win := rfl
@[simp] theorem setOut_tab1 (s : State) (m : Memory) : (s.setOut m).tab1 = s.tab1 := rfl
@[simp] theorem setOut_tab2 (s : State) (m : Memory) : (s.setOut m).tab2 = s.tab2 := rfl
@[simp] theorem setOut_engine (s : State) (m : Memory) : (s.setOut m).engine = s.engine := rfl
@[simp] theorem setOut_doneSeen (s : State) (m : Memory) : (s.setOut m).doneSeen = s.doneSeen := rfl
@[simp] theorem setOut_host (s : State) (m : Memory) : (s.setOut m).host = s.host := rfl
@[simp] theorem setOut_reads (s : State) (m : Memory) : (s.setOut m).reads = s.reads := rfl
@[simp] theorem setOut_resets (s : State) (m : Memory) : (s.setOut m).resets = s.resets := rfl
@[simp] theorem setOut_starts (s : State) (m : Memory) : (s.setOut m).starts = s.starts := rfl

/-! ## setTab1 -/

@[simp] theorem setTab1_cmd (s : State) (t : List Tab1Pair) : (s.setTab1 t).cmd = s.cmd := rfl
@[simp] theorem setTab1_status (s : State) (t : List Tab1Pair) : (s.setTab1 t).status = s.status := rfl
@[simp] theorem setTab1_errcode (s : State) (t : List Tab1Pair) : (s.setTab1 t).errcode = s.errcode := rfl
@[simp] theorem setTab1_errpos (s : State) (t : List Tab1Pair) : (s.setTab1 t).errpos = s.errpos := rfl
@[simp] theorem setTab1_srcOff (s : State) (t : List Tab1Pair) : (s.setTab1 t).srcOff = s.srcOff := rfl
@[simp] theorem setTab1_srcLen (s : State) (t : List Tab1Pair) : (s.setTab1 t).srcLen = s.srcLen := rfl
@[simp] theorem setTab1_dstCap (s : State) (t : List Tab1Pair) : (s.setTab1 t).dstCap = s.dstCap := rfl
@[simp] theorem setTab1_dstLen (s : State) (t : List Tab1Pair) : (s.setTab1 t).dstLen = s.dstLen := rfl
@[simp] theorem setTab1_srcUsed (s : State) (t : List Tab1Pair) : (s.setTab1 t).srcUsed = s.srcUsed := rfl
@[simp] theorem setTab1_arg0 (s : State) (t : List Tab1Pair) : (s.setTab1 t).arg0 = s.arg0 := rfl
@[simp] theorem setTab1_arg1 (s : State) (t : List Tab1Pair) : (s.setTab1 t).arg1 = s.arg1 := rfl
@[simp] theorem setTab1_tabInfo (s : State) (t : List Tab1Pair) : (s.setTab1 t).tabInfo = s.tabInfo := rfl
@[simp] theorem setTab1_inMem (s : State) (t : List Tab1Pair) : (s.setTab1 t).inMem = s.inMem := rfl
@[simp] theorem setTab1_outMem (s : State) (t : List Tab1Pair) : (s.setTab1 t).outMem = s.outMem := rfl
@[simp] theorem setTab1_sit (s : State) (t : List Tab1Pair) : (s.setTab1 t).sit = s.sit := rfl
@[simp] theorem setTab1_win (s : State) (t : List Tab1Pair) : (s.setTab1 t).win = s.win := rfl
@[simp] theorem setTab1_tab1 (s : State) (t : List Tab1Pair) : (s.setTab1 t).tab1 = t := rfl
@[simp] theorem setTab1_tab2 (s : State) (t : List Tab1Pair) : (s.setTab1 t).tab2 = s.tab2 := rfl
@[simp] theorem setTab1_engine (s : State) (t : List Tab1Pair) : (s.setTab1 t).engine = s.engine := rfl
@[simp] theorem setTab1_doneSeen (s : State) (t : List Tab1Pair) : (s.setTab1 t).doneSeen = s.doneSeen := rfl
@[simp] theorem setTab1_host (s : State) (t : List Tab1Pair) : (s.setTab1 t).host = s.host := rfl
@[simp] theorem setTab1_reads (s : State) (t : List Tab1Pair) : (s.setTab1 t).reads = s.reads := rfl
@[simp] theorem setTab1_resets (s : State) (t : List Tab1Pair) : (s.setTab1 t).resets = s.resets := rfl
@[simp] theorem setTab1_starts (s : State) (t : List Tab1Pair) : (s.setTab1 t).starts = s.starts := rfl

/-! ## clearTab -/

@[simp] theorem clearTab_cmd (s : State) : (s.clearTab).cmd = s.cmd := rfl
@[simp] theorem clearTab_status (s : State) : (s.clearTab).status = s.status := rfl
@[simp] theorem clearTab_errcode (s : State) : (s.clearTab).errcode = s.errcode := rfl
@[simp] theorem clearTab_errpos (s : State) : (s.clearTab).errpos = s.errpos := rfl
@[simp] theorem clearTab_srcOff (s : State) : (s.clearTab).srcOff = s.srcOff := rfl
@[simp] theorem clearTab_srcLen (s : State) : (s.clearTab).srcLen = s.srcLen := rfl
@[simp] theorem clearTab_dstCap (s : State) : (s.clearTab).dstCap = s.dstCap := rfl
@[simp] theorem clearTab_dstLen (s : State) : (s.clearTab).dstLen = s.dstLen := rfl
@[simp] theorem clearTab_srcUsed (s : State) : (s.clearTab).srcUsed = s.srcUsed := rfl
@[simp] theorem clearTab_arg0 (s : State) : (s.clearTab).arg0 = s.arg0 := rfl
@[simp] theorem clearTab_arg1 (s : State) : (s.clearTab).arg1 = s.arg1 := rfl
@[simp] theorem clearTab_tabInfo (s : State) : (s.clearTab).tabInfo = 0 := rfl
@[simp] theorem clearTab_inMem (s : State) : (s.clearTab).inMem = s.inMem := rfl
@[simp] theorem clearTab_outMem (s : State) : (s.clearTab).outMem = s.outMem := rfl
@[simp] theorem clearTab_sit (s : State) : (s.clearTab).sit = s.sit := rfl
@[simp] theorem clearTab_win (s : State) : (s.clearTab).win = s.win := rfl
@[simp] theorem clearTab_tab1 (s : State) : (s.clearTab).tab1 = s.tab1 := rfl
@[simp] theorem clearTab_tab2 (s : State) : (s.clearTab).tab2 = s.tab2 := rfl
@[simp] theorem clearTab_engine (s : State) : (s.clearTab).engine = s.engine := rfl
@[simp] theorem clearTab_doneSeen (s : State) : (s.clearTab).doneSeen = s.doneSeen := rfl
@[simp] theorem clearTab_host (s : State) : (s.clearTab).host = s.host := rfl
@[simp] theorem clearTab_reads (s : State) : (s.clearTab).reads = s.reads := rfl
@[simp] theorem clearTab_resets (s : State) : (s.clearTab).resets = s.resets := rfl
@[simp] theorem clearTab_starts (s : State) : (s.clearTab).starts = s.starts := rfl

/-! ## What the updates leave of derived quantities -/

@[simp] theorem latchOf_begin (s : State) (c : Reg) : latchOf (s.begin c) = latchOf s := rfl
@[simp] theorem latchOf_setRun (s : State) (l : Latch) (w : Work) : latchOf (s.setRun l w) = latchOf s := rfl
@[simp] theorem latchOf_raise (f : BlockFault) (pos : Nat) (s : State) : latchOf (raise f pos s) = latchOf s := rfl
@[simp] theorem latchOf_finish (fl : Reg) (u : Nat) (s : State) : latchOf (finish fl u s) = latchOf s := rfl
@[simp] theorem latchOf_putOut (s : State) (b : Byte) : latchOf (s.putOut b) = latchOf s := rfl
@[simp] theorem latchOf_setHost (s : State) (h : List HostEvent) : latchOf (s.setHost h) = latchOf s := rfl
@[simp] theorem latchOf_setWin (s : State) (m : Memory) : latchOf (s.setWin m) = latchOf s := rfl
@[simp] theorem latchOf_setOut (s : State) (m : Memory) : latchOf (s.setOut m) = latchOf s := rfl
@[simp] theorem latchOf_setTab1 (s : State) (t : List Tab1Pair) : latchOf (s.setTab1 t) = latchOf s := rfl
@[simp] theorem latchOf_clearTab (s : State) : latchOf s.clearTab = latchOf s := rfl
@[simp] theorem running_setRun (s : State) (l : Latch) (w : Work) : running (s.setRun l w) = true := rfl
@[simp] theorem running_raise (f : BlockFault) (pos : Nat) (s : State) : running (raise f pos s) = false := rfl
@[simp] theorem running_finish (fl : Reg) (u : Nat) (s : State) : running (finish fl u s) = false := rfl
@[simp] theorem busy_begin (s : State) (c : Reg) : busy (s.begin c) = true := by simp [busy, statusBusy]
@[simp] theorem busy_raise (f : BlockFault) (pos : Nat) (s : State) : busy (raise f pos s) = false := by
  simp [busy, statusFaulted, statusDone, statusErr]

@[simp] theorem hostOwns_begin (s : State) (c : Reg) : hostOwns (s.begin c) = false := by simp [hostOwns]
@[simp] theorem hostOwns_reset : hostOwns State.reset = true := rfl

end Sys2Proof.Machine
end

