-- ==== Sys2Proof/Laws/Memory.lean ====
section
/-! SUPPORT. The laws of the stores by address: read after write, and that every write keeps the canonical form. -/

namespace Sys2Proof.Machine

variable {α : Type}

@[simp] theorem read_nil (a : Nat) : Mem.read ([] : Mem α) a = none := rfl

theorem read_write_same (m : Mem α) (a : Nat) (v : α) : Mem.read (Mem.write m a v) a = some v := by
  induction m with
  | nil => simp [Mem.write, Mem.read]
  | cons c m ih =>
    obtain ⟨k, x⟩ := c
    unfold Mem.write
    split
    · simp [Mem.read]
    · split
      · simp [Mem.read]
      · rename_i hne
        simp only [Mem.read, if_neg hne, ih]

theorem read_write_other (m : Mem α) {a b : Nat} (v : α) (hne : b ≠ a) :
    Mem.read (Mem.write m a v) b = Mem.read m b := by
  induction m with
  | nil => simp [Mem.write, Mem.read, hne]
  | cons c m ih =>
    obtain ⟨k, x⟩ := c
    unfold Mem.write
    split
    · simp [Mem.read, hne]
    · split
      · rename_i hk
        subst hk
        simp [Mem.read, hne]
      · simp only [Mem.read, ih]

/-- A read after a write, in one equation. -/
theorem read_write (m : Mem α) (a b : Nat) (v : α) :
    Mem.read (Mem.write m a v) b = if b = a then some v else Mem.read m b := by
  split
  · rename_i h
    rw [h, read_write_same]
  · rename_i h
    exact read_write_other m v h

/-- Every cell of a written store is the written one or was there before. -/
theorem mem_write {m : Mem α} {a : Nat} {v : α} {c : Nat × α} (h : c ∈ Mem.write m a v) :
    c = (a, v) ∨ c ∈ m := by
  induction m with
  | nil => simpa [Mem.write] using h
  | cons d m ih =>
    unfold Mem.write at h
    split at h
    · simpa using h
    · split at h
      · rcases List.mem_cons.1 h with h | h
        · exact .inl h
        · exact .inr (List.mem_cons_of_mem _ h)
      · rcases List.mem_cons.1 h with h | h
        · exact .inr (h ▸ List.mem_cons_self)
        · exact (ih h).imp_right (List.mem_cons_of_mem _)

theorem write_wf {m : Mem α} (h : Mem.wf m) (a : Nat) (v : α) : Mem.wf (Mem.write m a v) := by
  induction m with
  | nil => simp [Mem.write]
  | cons d m ih =>
    obtain ⟨k, x⟩ := d
    obtain ⟨hd, hm⟩ := List.pairwise_cons.1 h
    unfold Mem.write
    split
    · rename_i hlt
      refine List.pairwise_cons.2 ⟨fun c hc => ?_, h⟩
      rcases List.mem_cons.1 hc with rfl | hc
      · exact hlt
      · exact Nat.lt_trans hlt (hd c hc)
    · rename_i hge
      split
      · rename_i heq
        exact List.pairwise_cons.2 ⟨fun c hc => heq ▸ hd c hc, hm⟩
      · rename_i hne
        refine List.pairwise_cons.2 ⟨fun c hc => ?_, ih hm⟩
        rcases mem_write hc with rfl | hc
        · show k < a
          omega
        · exact hd c hc

theorem writeAll_wf {m : Mem α} (h : Mem.wf m) (a : Nat) (vs : List α) : Mem.wf (Mem.writeAll m a vs) := by
  induction vs generalizing m a with
  | nil => exact h
  | cons v vs ih => exact ih (write_wf h a v) (a + 1)

theorem writeAll_append (m : Mem α) (a : Nat) (vs us : List α) :
    Mem.writeAll m a (vs ++ us) = Mem.writeAll (Mem.writeAll m a vs) (a + vs.length) us := by
  induction vs generalizing m a with
  | nil => rfl
  | cons v vs ih =>
    have hk : a + (v :: vs).length = a + 1 + vs.length := by simp; omega
    simp only [List.cons_append, Mem.writeAll, ih, hk]

/-- A read after consecutive writes. -/
theorem read_writeAll (m : Mem α) (a b : Nat) (vs : List α) :
    Mem.read (Mem.writeAll m a vs) b =
      if a ≤ b ∧ b < a + vs.length then vs[b - a]? else Mem.read m b := by
  induction vs generalizing m a with
  | nil => simp [Mem.writeAll, show ¬ (a ≤ b ∧ b < a) by omega]
  | cons v vs ih =>
    simp only [Mem.writeAll, ih, read_write, List.length_cons]
    by_cases hb : b = a
    · subst hb
      simp
    · by_cases hin : a + 1 ≤ b ∧ b < a + 1 + vs.length
      · have hk : b - a = (b - (a + 1)) + 1 := by omega
        rw [if_pos hin, if_pos (by omega), hk, List.getElem?_cons_succ]
      · rw [if_neg hin, if_neg hb, if_neg (by omega)]

/-- Reset memory is in canonical form. -/
theorem reset_mem_wf : Mem.wf State.reset.inMem ∧ Mem.wf State.reset.outMem ∧ Mem.wf State.reset.sit ∧
    Mem.wf State.reset.win := by decide

end Sys2Proof.Machine
end

