-- ==== Sys2Proof/Laws/Operands.lean ====
section
/-! SUPPORT. What the operand checks test, that a written region is read as it is, and byte order. -/

namespace Sys2Proof.Machine

theorem fitsIn_iff (x : Nat) : fitsIn x = true ↔ x ≤ Config.inCap := by
  have h : Config.capFloor ≤ Config.inCap := Nat.le_add_left _ _
  simp only [fitsIn, Bool.or_eq_true, decide_eq_true_eq]
  omega

theorem fitsOut_iff (x : Nat) : fitsOut x = true ↔ x ≤ Config.outCap := by
  have h : Config.capFloor ≤ Config.outCap := Nat.le_add_left _ _
  simp only [fitsOut, Bool.or_eq_true, decide_eq_true_eq]
  omega

theorem inCap_lt : Config.inCap < 2 ^ 32 := by
  have h := Nat.add_lt_add_right Config.inExtra.isLt 0x40000
  exact h

theorem outCap_lt : Config.outCap < 2 ^ 32 := by
  have h := Nat.add_lt_add_right Config.outExtra.isLt 0x40000
  exact h

theorem operandsFit_iff (l : Latch) :
    operandsFit l = true ↔ l.off + l.n ≤ Config.inCap ∧ l.cap ≤ Config.outCap := by
  simp [operandsFit, fitsIn_iff, fitsOut_iff]

theorem regionWritten_iff (s : State) (l : Latch) :
    regionWritten s l = true ↔ ∀ k < l.n, (Mem.read s.inMem (l.off + k)).isSome = true := by
  simp [regionWritten]

/-- A command past its region check reads IN as it stands. -/
theorem inByte_of_written {s : State} {a : Nat} {b : Byte} (h : Mem.read s.inMem a = some b) : inByte s a = b := by
  simp [inByte, h]

@[simp] theorem inBytes_length (s : State) (a n : Nat) : (inBytes s a n).length = n := by simp [inBytes]
@[simp] theorem regionBytes_length (s : State) (l : Latch) : (regionBytes s l).length = l.n := by
  simp [regionBytes]
@[simp] theorem inBitList_length (s : State) (l : Latch) (k m : Nat) : (inBitList s l k m).length = m := by
  simp [inBitList]

/-- The input of a state depends on IN, and on which reset it follows, alone. -/
theorem inByte_congr {s t : State} (h : t.inMem = s.inMem) (h' : t.resets = s.resets) (a : Nat) :
    inByte t a = inByte s a := by
  simp [inByte, h, h']

/-! ## Byte order -/

@[simp] theorem lowBytes_length {w : Nat} (n : Nat) (v : BitVec w) : (lowBytes n v).length = n := by
  simp [lowBytes]

/-- The four bytes of a word, bits 7:0 first (R40). -/
theorem leBytes_eq (v : Word) :
    leBytes v = [v.extractLsb' 0 8, v.extractLsb' 8 8, v.extractLsb' 16 8, v.extractLsb' 24 8] := rfl

@[simp] theorem leBytes_length (v : Word) : (leBytes v).length = 4 := rfl

/-- The two bytes of a control word, bits 7:0 first (R40). -/
theorem ctlBytes_eq (v : CtlWord) : lowBytes Config.lzssCtlBytes v = [v.extractLsb' 0 8, v.extractLsb' 8 8] := rfl

theorem leValue_lt (bs : List Byte) : leValue bs < 256 ^ bs.length := by
  induction bs with
  | nil => exact Nat.one_pos
  | cons b bs ih =>
    rw [leValue, List.length_cons, Nat.pow_succ]
    have hb := b.isLt
    omega

/-- Two bytes read as a number are their concatenation, the higher address on top (R40). -/
theorem ofNat_leValue_two (b0 b1 : Byte) : BitVec.ofNat 16 (leValue [b0, b1]) = b1 ++ b0 := by
  apply BitVec.eq_of_toNat_eq
  rw [BitVec.toNat_append, Nat.shiftLeft_eq, Nat.mul_comm, ← Nat.two_pow_add_eq_or_of_lt b0.isLt,
    BitVec.toNat_ofNat]
  have h0 := b0.isLt
  have h1 := b1.isLt
  simp only [leValue]
  omega

/-- The bytes of a region, one at a time. -/
theorem inBytes_succ (s : State) (a n : Nat) : inBytes s a (n + 1) = inByte s a :: inBytes s (a + 1) n := by
  simp only [inBytes, List.range_succ_eq_map, List.map_cons, List.map_map, Nat.add_zero]
  congr 1
  exact List.map_congr_left fun k _ => by simp [Nat.add_comm, Nat.add_left_comm]

end Sys2Proof.Machine
end

