-- ==== Sys2Proof/Laws/Output.lean ====
section
/-! SUPPORT. What `emit` and `emitAll` (R105) can do, said once: with room they store the bytes at DST_LEN and
advance it; without, they end in OutputOverflow with the bytes that fitted stored. -/

namespace Sys2Proof.Machine

/-- The state with `bs` stored at DST_LEN and DST_LEN advanced past them. -/
def State.putAll (s : State) : List Byte → State
  | [] => s
  | b :: bs => (s.putOut b).putAll bs

@[simp] theorem putAll_nil (s : State) : s.putAll [] = s := rfl
@[simp] theorem putAll_cons (s : State) (b : Byte) (bs : List Byte) :
    s.putAll (b :: bs) = (s.putOut b).putAll bs := rfl

theorem emit_full {cap : Nat} {s : State} (h : s.dstLen.toNat = cap) (ip : Nat) (b : Byte) :
    emit cap ip b s = .error (raise .outputOverflow ip s) := by simp [emit, h]

theorem emit_room {cap : Nat} {s : State} (h : s.dstLen.toNat ≠ cap) (ip : Nat) (b : Byte) :
    emit cap ip b s = .ok (s.putOut b) := by simp [emit, h]

theorem putOut_dstLen_toNat {s : State} (h : s.dstLen.toNat + 1 < 2 ^ 32) (b : Byte) :
    (s.putOut b).dstLen.toNat = s.dstLen.toNat + 1 := by
  simp only [putOut_dstLen, BitVec.toNat_add, BitVec.toNat_ofNat]
  omega

/-- With room for all of them, every byte is stored. -/
theorem emitAll_room {cap : Nat} (hcap : cap < 2 ^ 32) (ip : Nat) (bs : List Byte) {s : State}
    (h : s.dstLen.toNat + bs.length ≤ cap) : emitAll cap ip bs s = .ok (s.putAll bs) := by
  induction bs generalizing s with
  | nil => rfl
  | cons b bs ih =>
    simp only [List.length_cons] at h
    have hlen := putOut_dstLen_toNat (s := s) (by omega) b
    rw [emitAll, emit_room (by omega)]
    simpa using ih (by omega)

/-- In general: the bytes that fit are stored, and where one does not fit the command ends in OutputOverflow. -/
theorem emitAll_cases {cap : Nat} (hcap : cap < 2 ^ 32) (ip : Nat) (bs : List Byte) {s : State}
    (h : s.dstLen.toNat ≤ cap) :
    (s.dstLen.toNat + bs.length ≤ cap ∧ emitAll cap ip bs s = .ok (s.putAll bs)) ∨
      (cap < s.dstLen.toNat + bs.length ∧
        emitAll cap ip bs s =
          .error (raise .outputOverflow ip (s.putAll (bs.take (cap - s.dstLen.toNat))))) := by
  induction bs generalizing s with
  | nil => exact .inl ⟨by simpa using h, rfl⟩
  | cons b bs ih =>
    by_cases hfull : s.dstLen.toNat = cap
    · refine .inr ⟨by simp; omega, ?_⟩
      rw [emitAll, emit_full hfull]
      simp [hfull]
    · have hlen := putOut_dstLen_toNat (s := s) (by omega) b
      rw [emitAll, emit_room hfull]
      rcases ih (s := s.putOut b) (by omega) with ⟨hle, heq⟩ | ⟨hgt, heq⟩
      · exact .inl ⟨by simp; omega, by simpa using heq⟩
      · refine .inr ⟨by simp; omega, ?_⟩
        have hk : cap - s.dstLen.toNat = (cap - (s.putOut b).dstLen.toNat) + 1 := by omega
        simpa [hk] using heq

/-- Output changes OUT, DST_LEN and, on a fault, STATUS, ERRCODE, ERRPOS and the engine; everything else stands.
`P` is any property those updates keep. -/
theorem emitAll_keeps {P : State → Prop} {cap ip : Nat} {bs : List Byte} {s : State} (h : P s)
    (hput : ∀ (u : State) (b : Byte), P u → P (u.putOut b))
    (hraise : ∀ u : State, P u → P (raise .outputOverflow ip u)) :
    match emitAll cap ip bs s with
    | .ok t => P t
    | .error e => P e := by
  induction bs generalizing s with
  | nil => exact h
  | cons b bs ih =>
    rw [emitAll]
    by_cases hfull : s.dstLen.toNat = cap
    · rw [emit_full hfull]
      exact hraise _ h
    · rw [emit_room hfull]
      exact ih (hput _ _ h)

theorem putAll_append (s : State) (as bs : List Byte) : s.putAll (as ++ bs) = (s.putAll as).putAll bs := by
  induction as generalizing s with
  | nil => rfl
  | cons a as ih => simp [ih]

theorem putAll_dstLen {s : State} (bs : List Byte) (h : s.dstLen.toNat + bs.length < 2 ^ 32) :
    (s.putAll bs).dstLen.toNat = s.dstLen.toNat + bs.length := by
  induction bs generalizing s with
  | nil => rfl
  | cons b bs ih =>
    simp only [List.length_cons] at h ⊢
    have hlen := putOut_dstLen_toNat (s := s) (by omega) b
    rw [putAll_cons, ih (by omega), hlen]
    omega

theorem putAll_outMem {s : State} (bs : List Byte) (h : s.dstLen.toNat + bs.length < 2 ^ 32) :
    (s.putAll bs).outMem = Mem.writeAll s.outMem s.dstLen.toNat bs := by
  induction bs generalizing s with
  | nil => rfl
  | cons b bs ih =>
    simp only [List.length_cons] at h
    have hlen := putOut_dstLen_toNat (s := s) (by omega) b
    rw [putAll_cons, ih (by omega), hlen]
    rfl

/-- `putAll` touches OUT and DST_LEN alone. -/
theorem putAll_frame (s : State) (bs : List Byte) :
    s.putAll bs = { s with outMem := (s.putAll bs).outMem, dstLen := (s.putAll bs).dstLen } := by
  induction bs generalizing s with
  | nil => rfl
  | cons b bs ih =>
    rw [putAll_cons, ih (s.putOut b)]
    rfl

end Sys2Proof.Machine
end

