-- ==== Sys2Proof/Laws/PerInstr.lean ====
section
/-! SUPPORT. Statements for all instructions, one lemma per constructor. `EncodedBits`: the encoding of a well-formed
instruction is not empty, so that every token moves its decoder's cursor (R62, R72, R74, R78, R252). -/

namespace Sys2Proof.Laws.EncodedBits

/-- A well-formed instruction takes at least one bit of its stream, whatever the code width of an LZW code. -/
def Statement (i : Instr) : Prop := i.wellFormed = true → ∀ w, 1 ≤ w → 0 < (encode i).bitCount w

theorem lzssDec : Statement .lzssDec := fun _ _ _ => Nat.zero_lt_succ 31
theorem lzssEnc : Statement .lzssEnc := fun _ _ _ => Nat.zero_lt_succ 31
theorem lzwDec : Statement .lzwDec := fun _ _ _ => Nat.zero_lt_succ 31
theorem lzwEnc : Statement .lzwEnc := fun _ _ _ => Nat.zero_lt_succ 31
theorem rleDec : Statement .rleDec := fun _ _ _ => Nat.zero_lt_succ 31
theorem rleEnc : Statement .rleEnc := fun _ _ _ => Nat.zero_lt_succ 31
theorem waveletInv : Statement .waveletInv := fun _ _ _ => Nat.zero_lt_succ 31
theorem vlcBuild : Statement .vlcBuild := fun _ _ _ => Nat.zero_lt_succ 31
theorem vlcDecode : Statement .vlcDecode := fun _ _ _ => Nat.zero_lt_succ 31
theorem clear : Statement .clear := fun _ _ _ => Nat.zero_lt_succ 31
theorem lzssLit (v : Byte) : Statement (.lzssLit v) := fun _ _ _ => by simp [encode, Encoded.bitCount]
theorem lzssSref (len dist : Nat) : Statement (.lzssSref len dist) := fun _ _ _ => by
  simp [encode, Encoded.bitCount, lzssShortUnits]
theorem lzssLref (len dist : Nat) : Statement (.lzssLref len dist) := fun _ _ _ => by
  simp [encode, Encoded.bitCount, lzssLongUnits]
theorem lzssXref (len dist : Nat) : Statement (.lzssXref len dist) := fun _ _ _ => by
  simp [encode, Encoded.bitCount, lzssLongUnits]
theorem lzssSeg (off13 : Nat) : Statement (.lzssSeg off13) := fun _ _ _ => by
  simp [encode, Encoded.bitCount, lzssLongUnits]
theorem lzssEnd (off13 : Nat) : Statement (.lzssEnd off13) := fun _ _ _ => by
  simp [encode, Encoded.bitCount, lzssLongUnits]
theorem lzwByte (b : Byte) : Statement (.lzwByte b) := fun _ _ hw => hw
theorem lzwClr : Statement .lzwClr := fun _ _ hw => hw
theorem lzwEntry (k : Nat) : Statement (.lzwEntry k) := fun _ _ hw => hw
theorem lzwKwk (k : Nat) : Statement (.lzwKwk k) := fun _ _ hw => hw
theorem rleByte (b : Byte) : Statement (.rleByte b) := fun _ _ _ => by simp [encode, Encoded.bitCount]
theorem rleEsc : Statement .rleEsc := fun _ _ _ => by simp [encode, Encoded.bitCount]
theorem rleRun (n : Nat) : Statement (.rleRun n) := fun _ _ _ => by simp [encode, Encoded.bitCount]
theorem vlcTerm (path : List Bool) : Statement (.vlcTerm path) := fun h _ _ => (of_decide_eq_true h).1
theorem vlcZrun (path : List Bool) (run : Nat) : Statement (.vlcZrun path run) := fun _ _ _ => by
  simp [encode, Encoded.bitCount, Config.vlcZrunBits]
theorem vlcDeep (path : List Bool) : Statement (.vlcDeep path) := fun h _ _ =>
  Nat.lt_of_le_of_lt (Nat.zero_le _) (of_decide_eq_true h)

end Sys2Proof.Laws.EncodedBits
end

