-- ==== Sys2Proof/Laws/Step.lean ====
section
/-! SUPPORT. What the command frame and one step can do, said once each: later proofs cite these instead of
unfolding `startFamily`, `turn` or `step`. -/

namespace Sys2Proof.Machine

/-- A command write either is ignored (BUSY = 1) or runs the command's rule on the begun state (R100, R101). -/
theorem startCommand_busy {s : State} (h : busy s = true) (c : Reg) (k : State → Out) :
    startCommand c s k = .next s := by simp [startCommand, h]

theorem startCommand_free {s : State} (h : busy s = false) (c : Reg) (k : State → Out) :
    startCommand c s k = k (s.begin c) := by simp [startCommand, h]

theorem checkOperands_bad {t : State} (h : operandsFit (latchOf t) = false) (k : Latch → State → Out) :
    checkOperands t k = .next (raise .badParameter 0 t) := by simp [checkOperands, h]

theorem checkOperands_ok {t : State} (h : operandsFit (latchOf t) = true) (k : Latch → State → Out) :
    checkOperands t k = k (latchOf t) t := by simp [checkOperands, h]

/-- The host owns the block exactly while it is idle and the host has seen that it is (R47). -/
theorem hostOwns_iff (s : State) : hostOwns s = true ↔ busy s = false ∧ s.doneSeen = true := by
  simp [hostOwns]

theorem hostOwns_busy {s : State} (h : busy s = true) : hostOwns s = false := by simp [hostOwns, h]

theorem hostOwns_unseen {s : State} (h : s.doneSeen = false) : hostOwns s = false := by simp [hostOwns, h]

/-- While the engine owns the block a host write changes nothing (R47, R307). -/
theorem hostTurn_write_ignored {s : State} (h : hostOwns s = false) (r : Nat) (v : Reg) :
    hostTurn (.writeReg r v) s = .own (.next s) := by simp [hostTurn, h]

/-- While the host owns it a register write takes effect, of CMD too (R14, R100). -/
theorem hostTurn_write {s : State} (h : hostOwns s = true) (r : Nat) (v : Reg) :
    hostTurn (.writeReg r v) s = hostWriteReg r v s := by simp [hostTurn, h]

/-- Everything a command start can be: ignored, BadParameter, or the family's rule. -/
theorem startFamily_cases (c : Reg) (s : State) (k : Latch → State → Out) :
    (busy s = true ∧ startFamily c s k = .next s) ∨
      (busy s = false ∧ operandsFit (latchOf s) = false ∧
        startFamily c s k = .next (raise .badParameter 0 (s.begin c))) ∨
      (busy s = false ∧ operandsFit (latchOf s) = true ∧
        startFamily c s k = k (latchOf s) (s.begin c)) := by
  cases hb : busy s with
  | true => exact .inl ⟨rfl, startCommand_busy hb c _⟩
  | false =>
    rw [startFamily, startCommand_free hb]
    cases hf : operandsFit (latchOf s) with
    | false => exact .inr (.inl ⟨rfl, rfl, checkOperands_bad (by simpa using hf) k⟩)
    | true => exact .inr (.inr ⟨rfl, rfl, checkOperands_ok (by simpa using hf) k⟩)

theorem requireInput_ok {s : State} {l : Latch} (h : regionWritten s l = true) (k : Out) :
    requireInput s l k = k := by simp [requireInput, h]

theorem requireInput_next {s : State} {l : Latch} {k : Out} {t : State} (h : requireInput s l k = .next t) :
    regionWritten s l = true ∧ k = .next t := by
  unfold requireInput at h
  split at h
  · exact ⟨‹_›, h⟩
  · cases h

@[simp] theorem runTurn_instr (i : Instr) (t : State) : runTurn (.instr i t) = exec i t := rfl
@[simp] theorem runTurn_own (o : Out) : runTurn (.own o) = o := rfl

/-- An idle engine with no access pending stays as it is (R301, R312). -/
theorem step_idle {s : State} (he : s.engine = .idle) (hh : s.host = []) : step s = .next s := by
  rw [step, turn, hh]
  simp only [engineStep, he, runTurn]

/-- With no access pending, a running engine moves. -/
theorem step_engine {s : State} {l : Latch} {w : Work} (he : s.engine = .run l w) (hh : s.host = []) :
    step s = runTurn (engineTurn l w s) := by
  rw [step, turn, hh]
  simp only [engineStep, he]

/-- A due access is the host's move. -/
theorem step_host {s : State} {e : HostEvent} {rest : List HostEvent} (hh : s.host = e :: rest)
    (hd : running s = false ∨ e.delay = 0) : step s = runTurn (hostTurn e.op (s.setHost rest)) := by
  have hn : ¬ (running s = true ∧ e.delay ≠ 0) := by rcases hd with h | h <;> simp [h]
  rw [step, turn, hh]
  simp only [if_neg hn]

/-- An access not yet due lets the engine move. -/
theorem step_delayed {s : State} {e : HostEvent} {rest : List HostEvent} {l : Latch} {w : Work}
    (he : s.engine = .run l w) (hh : s.host = e :: rest) (hd : e.delay ≠ 0) :
    step s = runTurn (engineTurn l w (s.setHost ({ e with delay := e.delay - 1 } :: rest))) := by
  have hr : running s = true ∧ e.delay ≠ 0 := ⟨by simp [running, he], hd⟩
  rw [step, turn, hh]
  simp only [if_pos hr, engineStep, setHost_engine, he]

/-- Everything one step is: idle, an engine turn, or a host access. -/
theorem step_cases (s : State) :
    (s.engine = .idle ∧ s.host = [] ∧ step s = .next s) ∨
      (∃ l w h, s.engine = .run l w ∧ step s = runTurn (engineTurn l w (s.setHost h))) ∨
      (∃ e rest, s.host = e :: rest ∧ step s = runTurn (hostTurn e.op (s.setHost rest))) := by
  cases hh : s.host with
  | nil =>
    cases he : s.engine with
    | idle => exact .inl ⟨rfl, rfl, step_idle he hh⟩
    | run l w => exact .inr (.inl ⟨l, w, [], rfl, by rw [step_engine he hh, ← hh]; rfl⟩)
  | cons e rest =>
    by_cases hd : running s = false ∨ e.delay = 0
    · exact .inr (.inr ⟨e, rest, rfl, step_host hh hd⟩)
    · obtain ⟨hr, hd⟩ := not_or.1 hd
      cases he : s.engine with
      | idle => simp [running, he] at hr
      | run l w => exact .inr (.inl ⟨l, w, _, rfl, step_delayed he hh hd⟩)

end Sys2Proof.Machine
end

