-- ==== Sys2Proof/Laws/Window.lean ====
section
/-! SUPPORT. The sliding window (R132, R134) and the writes that go round `emit` (R146, R217, R231): that each keeps
the canonical form, and which cells it leaves alone. -/

namespace Sys2Proof.Machine

/-! ## Copy and shift -/

theorem winCopy_wf {m : Memory} (h : Mem.wf m) (dist len wp : Nat) : Mem.wf (winCopy dist len wp m) := by
  induction len generalizing wp m with
  | zero => exact h
  | succ len ih => exact ih (write_wf h _ _) _

theorem winShift_wf {m : Memory} (h : Mem.wf m) (amount n k : Nat) : Mem.wf (winShift amount n k m) := by
  induction n generalizing k m with
  | zero => exact h
  | succ n ih => exact ih (write_wf h _ _) _

/-- A copy writes the `len` cells from `wp` and no other. -/
theorem winCopy_read_outside (m : Memory) (dist len wp : Nat) {a : Nat} (h : a < wp ∨ wp + len ≤ a) :
    Mem.read (winCopy dist len wp m) a = Mem.read m a := by
  induction len generalizing wp m with
  | zero => rfl
  | succ len ih => rw [winCopy, ih _ _ (by omega), read_write_other _ _ (by omega)]

/-- Every cell a copy writes holds a value afterwards. -/
theorem winCopy_written (m : Memory) (dist len wp : Nat) {a : Nat} (h : wp ≤ a ∧ a < wp + len) :
    (Mem.read (winCopy dist len wp m) a).isSome = true := by
  induction len generalizing wp m with
  | zero => omega
  | succ len ih =>
    by_cases ha : a = wp
    · rw [winCopy, winCopy_read_outside _ _ _ _ (by omega), ha, read_write_same]
      rfl
    · exact ih _ _ (by omega)

/-- A shift writes the `n` cells from `k` and no other. -/
theorem winShift_read_outside (m : Memory) (amount n k : Nat) {a : Nat} (h : a < k ∨ k + n ≤ a) :
    Mem.read (winShift amount n k m) a = Mem.read m a := by
  induction n generalizing k m with
  | zero => rfl
  | succ n ih => rw [winShift, ih _ _ (by omega), read_write_other _ _ (by omega)]

/-- A shift down by a positive amount moves each cell from `amount` above: a source is read before it is written. -/
theorem winShift_read_inside (m : Memory) {amount : Nat} (hpos : 0 < amount) (n k : Nat) {a : Nat}
    (h : k ≤ a ∧ a < k + n) :
    Mem.read (winShift amount n k m) a = some (winByte m (a + amount)) := by
  induction n generalizing k m with
  | zero => omega
  | succ n ih =>
    by_cases ha : a = k
    · rw [winShift, winShift_read_outside _ _ _ _ (by omega), ha, read_write_same]
    · rw [winShift, ih _ _ (by omega), winByte, read_write_other _ _ (by omega)]
      rfl

/-! ## The other writes -/

/-- Output keeps OUT in canonical form. -/
theorem putAll_outMem_wf {s : State} (h : Mem.wf s.outMem) (bs : List Byte) : Mem.wf (s.putAll bs).outMem := by
  induction bs generalizing s with
  | nil => exact h
  | cons b bs ih => exact ih (write_wf h _ _)

/-- Filling a control word's slot keeps OUT in canonical form. -/
theorem fillSlot_outMem_wf {s : State} (h : Mem.wf s.outMem) (w : LzssEncWork) :
    Mem.wf (lzssFillSlot w s).outMem := write_wf (write_wf h _ _) _ _

/-- Filling a slot writes its two bytes and no other. -/
theorem fillSlot_read_other (w : LzssEncWork) (s : State) {a : Nat} (h : a ≠ w.slot) (h' : a ≠ w.slot + 1) :
    Mem.read (lzssFillSlot w s).outMem a = Mem.read s.outMem a := by
  show Mem.read (Mem.write (Mem.write s.outMem _ _) _ _) a = _
  rw [read_write_other _ _ h', read_write_other _ _ h]

@[simp] theorem fillSlot_dstLen (w : LzssEncWork) (s : State) : (lzssFillSlot w s).dstLen = s.dstLen := rfl
@[simp] theorem fillSlot_engine (w : LzssEncWork) (s : State) : (lzssFillSlot w s).engine = s.engine := rfl

/-- A host write of SIT keeps it in canonical form. -/
theorem hostWriteSit_wf {s : State} (h : Mem.wf s.sit) (a : Nat) (v : Word) : Mem.wf (hostWriteSit a v s).sit :=
  write_wf h a v

@[simp] theorem hostWriteSit_tabInfo (a : Nat) (v : Word) (s : State) : (hostWriteSit a v s).tabInfo = 0 := rfl

end Sys2Proof.Machine
end

