-- ==== Sys2Proof/Laws/Tokens.lean ====
section
/-! SUPPORT. What the operations the tokens share can do, said once each: `rleOut`, `lzwOutput`, `vlcWord`,
`lzssSlide`, `lzssEnd`, `lzssCopy`. Every case is a next state. -/

namespace Sys2Proof.Machine

/-- `afterEmit` over output that may not fit. -/
theorem afterEmit_cases {cap : Nat} (hcap : cap < 2 ^ 32) (ip : Nat) (bs : List Byte) {s : State}
    (h : s.dstLen.toNat ≤ cap) (k : State → Out) :
    (s.dstLen.toNat + bs.length ≤ cap ∧ afterEmit (emitAll cap ip bs s) k = k (s.putAll bs)) ∨
      (cap < s.dstLen.toNat + bs.length ∧ afterEmit (emitAll cap ip bs s) k =
        .next (raise .outputOverflow ip (s.putAll (bs.take (cap - s.dstLen.toNat))))) := by
  rcases emitAll_cases hcap ip bs h with ⟨hr, he⟩ | ⟨hr, he⟩
  · exact .inl ⟨hr, by rw [he]; rfl⟩
  · exact .inr ⟨hr, by rw [he]; rfl⟩

/-- With room, output goes on. -/
theorem afterEmit_room {cap : Nat} (hcap : cap < 2 ^ 32) (ip : Nat) (bs : List Byte) {s : State}
    (h : s.dstLen.toNat + bs.length ≤ cap) (k : State → Out) :
    afterEmit (emitAll cap ip bs s) k = k (s.putAll bs) := by
  rw [emitAll_room hcap ip bs h]
  rfl

theorem rleOut_room {l : Latch} (hcap : l.cap < 2 ^ 32) {s : State} {bs : List Byte}
    (h : s.dstLen.toNat + bs.length ≤ l.cap) (last : Byte) (w : RleDecWork) :
    rleOut bs last l w s = .next ((s.putAll bs).setRun l (.rleDec { w with last := some last })) :=
  afterEmit_room hcap _ _ h _

theorem lzwOutput_room {l : Latch} (hcap : l.cap < 2 ^ 32) {s : State} {e : List Byte}
    (h : s.dstLen.toNat + e.length ≤ l.cap) (c : Nat) (w : LzwDecWork) :
    lzwOutput e c l w s =
      .next ((s.putAll e).setRun l (.lzwDec { w with dict := lzwLearn w e, prev := some c })) :=
  afterEmit_room hcap _ _ h _

theorem vlcWord_room {l : Latch} (hcap : l.cap < 2 ^ 32) {s : State} (h : s.dstLen.toNat + 4 ≤ l.cap)
    (v : Word) (len : Nat) (w : VlcDecodeWork) :
    vlcWord v len l w s =
      .next ((s.putAll (leBytes v)).setRun l (.vlcDecode { p := w.p + len, words := w.words + 1 })) :=
  afterEmit_room hcap _ _ (by rw [leBytes_length]; exact h) _

/-- What the dictionary learns from a string (R165, R170): nothing without a previous code. -/
theorem lzwLearn_none {w : LzwDecWork} (h : w.prev = none) (e : List Byte) : lzwLearn w e = w.dict := by
  simp [lzwLearn, h]

/-- A full dictionary learns nothing. -/
theorem lzwLearn_full {w : LzwDecWork} (h : 2 ^ w.maxW ≤ lzwNext w.dict.length) (e : List Byte) :
    lzwLearn w e = w.dict := by
  unfold lzwLearn
  split
  · rfl
  · rw [if_neg (by omega)]

/-- Otherwise it learns the previous string and the first byte of this one. -/
theorem lzwLearn_some {w : LzwDecWork} {pc : Nat} {ps : List Byte} (hp : w.prev = some pc)
    (hs : lzwString w.dict pc = some ps) (h : lzwNext w.dict.length < 2 ^ w.maxW) (e : List Byte) :
    lzwLearn w e = w.dict ++ [ps ++ e.take 1] := by
  simp [lzwLearn, hp, hs, h]

/-- The window stays where it is while `wp` is at most 0x4000. -/
theorem lzssSlide_stay {w : LzssDecWork} (h : w.wp ≤ Config.winFlush) (l : Latch) (s : State) :
    lzssSlide l w s = .next (s.setRun l (.lzssDec w)) := by
  simp [lzssSlide, Nat.not_lt.2 h]

/-- Beyond it, with room, the oldest 0x2000 bytes go out and the rest moves down. -/
theorem lzssSlide_room {l : Latch} (hcap : l.cap < 2 ^ 32) {w : LzssDecWork} (h : Config.winFlush < w.wp)
    {s : State} (hroom : s.dstLen.toNat + Config.winSlide ≤ l.cap) :
    lzssSlide l w s =
      .next (((s.putAll (winBytes s.win 0 Config.winSlide)).setWin
          (winShift Config.winSlide (w.wp - Config.winSlide) 0
            (s.putAll (winBytes s.win 0 Config.winSlide)).win)).setRun l
        (.lzssDec { w with wp := w.wp - Config.winSlide, total := w.total + Config.winSlide })) := by
  rw [lzssSlide, if_pos h, afterEmit_room hcap _ _ (by simpa [winBytes] using hroom)]

/-- The end of LZSS_DEC, with room for the window. -/
theorem lzssEnd_room {l : Latch} (hcap : l.cap < 2 ^ 32) {w : LzssDecWork} {s : State}
    (hroom : s.dstLen.toNat + w.wp ≤ l.cap) (flags : Reg) :
    lzssEnd flags l w s = .next (finish flags (w.ip - l.off) (s.putAll (winBytes s.win 0 w.wp))) :=
  afterEmit_room hcap _ _ (by simpa [winBytes] using hroom) _

/-- A reference beyond what was produced is a fault (R133). -/
theorem lzssCopy_bad {w : LzssDecWork} {dist : Nat} (h : w.total + w.wp < dist) (len : Nat) (l : Latch)
    (s : State) : lzssCopy len dist l w s = .next (raise .lzssBadDistance w.ip s) := by
  simp [lzssCopy, h]

/-- Any other is a copy, then the token's end. -/
theorem lzssCopy_ok {w : LzssDecWork} {dist : Nat} (h : dist ≤ w.total + w.wp) (len : Nat) (l : Latch)
    (s : State) :
    lzssCopy len dist l w s =
      lzssSlide l { w with wp := w.wp + len } (s.setWin (winCopy dist len w.wp s.win)) := by
  simp [lzssCopy, Nat.not_lt.2 h]

end Sys2Proof.Machine
end

