-- ==== Sys2Proof/Tests/Slice0.lean ====
section
/-! SUPPORT. The model's own tests: ill-formed terms, a written-out word for every instruction, one step of every
instruction with the result 95_test_vectors.md or a rule's own example gives, and a witness for the hypotheses of
every statement. -/

namespace Sys2Proof.Tests

open Sys2Proof.Machine

/-! ## Small states -/

/-- A store holding `bs` from address 0. -/
def cells (bs : List Byte) : Memory := Mem.writeAll [] 0 bs

/-- The operands of a command on `bs` with capacity `cap`. -/
def latch (n cap : Nat) : Latch := { off := 0, n := n, cap := cap, a0 := 0, a1 := 0 }

/-- A host that has written `bs` and the operand registers, and is about to write CMD. -/
def ready (bs : List Byte) (cap : Nat) (a0 a1 : Reg) : State :=
  { State.reset with
    inMem := cells bs, srcLen := BitVec.ofNat 32 bs.length, dstCap := BitVec.ofNat 32 cap
    arg0 := a0, arg1 := a1 }

/-- A command running on `bs` with capacity `cap`. -/
def midway (bs : List Byte) (cap : Nat) (w : Work) : State :=
  { ready bs cap 0 0 with status := 1, doneSeen := false, engine := .run (latch bs.length cap) w }

/-- What a next state shows. -/
def shows {α : Type} (o : Out) (f : State → α) : Option α :=
  match o with
  | .next t => some (f t)
  | .fault _ => none
  | .refused _ => none

/-- STATUS, ERRCODE, ERRPOS, DST_LEN, SRC_USED. -/
def results (t : State) : List Reg := [t.status, t.errcode, t.errpos, t.dstLen, t.srcUsed]

/-- OUT below DST_LEN. -/
def output (t : State) : List (Option Byte) := outCells t

/-- A word holding a signed value. -/
def int (v : Int) : Word := BitVec.ofInt 32 v

/-! ## WellFormed refuses what no encoding holds -/

theorem test_wf_sref_len_low : (Instr.lzssSref 1 1).wellFormed = false := by decide
theorem test_wf_sref_len_high : (Instr.lzssSref 6 1).wellFormed = false := by decide
theorem test_wf_sref_dist_low : (Instr.lzssSref 2 0).wellFormed = false := by decide
theorem test_wf_sref_dist_high : (Instr.lzssSref 2 257).wellFormed = false := by decide
theorem test_wf_lref_len_low : (Instr.lzssLref 2 1).wellFormed = false := by decide
theorem test_wf_lref_len_high : (Instr.lzssLref 10 1).wellFormed = false := by decide
theorem test_wf_lref_dist_low : (Instr.lzssLref 3 0).wellFormed = false := by decide
theorem test_wf_lref_dist_high : (Instr.lzssLref 3 8193).wellFormed = false := by decide
theorem test_wf_xref_len_low : (Instr.lzssXref 2 1).wellFormed = false := by decide
theorem test_wf_xref_len_high : (Instr.lzssXref 257 1).wellFormed = false := by decide
theorem test_wf_xref_dist_low : (Instr.lzssXref 3 0).wellFormed = false := by decide
theorem test_wf_xref_dist_high : (Instr.lzssXref 3 8193).wellFormed = false := by decide
theorem test_wf_seg_high : (Instr.lzssSeg 8192).wellFormed = false := by decide
theorem test_wf_end_high : (Instr.lzssEnd 8192).wellFormed = false := by decide
theorem test_wf_entry_low : (Instr.lzwEntry 256).wellFormed = false := by decide
theorem test_wf_entry_high : (Instr.lzwEntry 4096).wellFormed = false := by decide
theorem test_wf_kwk_low : (Instr.lzwKwk 256).wellFormed = false := by decide
theorem test_wf_kwk_high : (Instr.lzwKwk 4096).wellFormed = false := by decide
theorem test_wf_rle_byte_control : (Instr.rleByte 0x90).wellFormed = false := by decide
theorem test_wf_rle_run_low : (Instr.rleRun 0).wellFormed = false := by decide
theorem test_wf_rle_run_high : (Instr.rleRun 256).wellFormed = false := by decide
theorem test_wf_term_empty : (Instr.vlcTerm []).wellFormed = false := by decide
theorem test_wf_term_long : (Instr.vlcTerm (List.replicate 9 true)).wellFormed = false := by decide
theorem test_wf_zrun_long : (Instr.vlcZrun (List.replicate 9 true) 0).wellFormed = false := by decide
theorem test_wf_zrun_run_high : (Instr.vlcZrun [] 1024).wellFormed = false := by decide
theorem test_wf_deep_short : (Instr.vlcDeep (List.replicate 8 true)).wellFormed = false := by decide

/-! ## Every instruction's encoding, written out from 30_encoding.md -/

/-- R60. -/
theorem test_decode_lzssDec : decodeCommand 0x00000001 = .ok .lzssDec := by decide
theorem test_decode_lzssEnc : decodeCommand 0x00000002 = .ok .lzssEnc := by decide
theorem test_decode_lzwDec : decodeCommand 0x00000003 = .ok .lzwDec := by decide
theorem test_decode_lzwEnc : decodeCommand 0x00000004 = .ok .lzwEnc := by decide
theorem test_decode_rleDec : decodeCommand 0x00000005 = .ok .rleDec := by decide
theorem test_decode_rleEnc : decodeCommand 0x00000006 = .ok .rleEnc := by decide
theorem test_decode_waveletInv : decodeCommand 0x00000007 = .ok .waveletInv := by decide
theorem test_decode_vlcBuild : decodeCommand 0x00000008 = .ok .vlcBuild := by decide
theorem test_decode_vlcDecode : decodeCommand 0x00000009 = .ok .vlcDecode := by decide
theorem test_decode_clear : decodeCommand 0x0000000F = .ok .clear := by decide

/-- R61, V50. -/
theorem test_decode_illegal : decodeCommand 0x00000000 = .error .illegalCommand ∧
    decodeCommand 0x00000010 = .error .illegalCommand ∧ decodeCommand 0x00000101 = .error .illegalCommand := by
  decide

/-- R63. -/
theorem test_decode_lit : decodeLzss [.bit true, .byte 0x90] = .ok (.lzssLit 0x90, []) := by decide

/-- R64: `h = 1`, `l = 0` is length 4; byte 00 is distance 256. -/
theorem test_decode_sref :
    decodeLzss [.bit false, .bit false, .bit true, .bit false, .byte 0x00] = .ok (.lzssSref 4 256, []) := by
  decide

/-- R128: `FE FC` is length 6, distance 2. -/
theorem test_decode_lref :
    decodeLzss [.bit false, .bit true, .byte 0xFE, .byte 0xFC] = .ok (.lzssLref 6 2, []) := by decide

/-- R129: `FF F8 09` is length 10, distance 1; `e = FF` is length 256. -/
theorem test_decode_xref :
    decodeLzss [.bit false, .bit true, .byte 0xFF, .byte 0xF8, .byte 0x09] = .ok (.lzssXref 10 1, []) ∧
    decodeLzss [.bit false, .bit true, .byte 0x00, .byte 0x00, .byte 0xFF] = .ok (.lzssXref 256 8192, []) := by
  decide

/-- R68. -/
theorem test_decode_seg :
    decodeLzss [.bit false, .bit true, .byte 0x00, .byte 0x00, .byte 0x01] = .ok (.lzssSeg 0, []) := by decide

/-- R69. -/
theorem test_decode_end :
    decodeLzss [.bit false, .bit true, .byte 0x00, .byte 0x00, .byte 0x00] = .ok (.lzssEnd 0, []) := by decide

/-- V5: LREF 3,300 is the bytes `D4 F1`; SREF 2,255 is byte 01. -/
theorem test_encode_refs :
    encode (.lzssLref 3 300) = .lzss [.bit false, .bit true, .byte 0xD4, .byte 0xF1] ∧
    encode (.lzssSref 2 255) = .lzss [.bit false, .bit false, .bit false, .bit false, .byte 0x01] := by decide

/-- R73, V16. -/
theorem test_decode_lzw :
    decodeLzw { next := 257, maxW := 12, havePrev := false } 65 = .ok (.lzwByte 0x41) ∧
    decodeLzw { next := 257, maxW := 12, havePrev := true } 256 = .ok .lzwClr ∧
    decodeLzw { next := 258, maxW := 12, havePrev := true } 257 = .ok (.lzwEntry 257) ∧
    decodeLzw { next := 257, maxW := 12, havePrev := true } 257 = .ok (.lzwKwk 257) ∧
    decodeLzw { next := 257, maxW := 12, havePrev := false } 257 = .error .lzwBadCode := by decide

/-- R74, V21: the count after a control byte may be 0x90. -/
theorem test_decode_rle : decodeRle [0x41] = .ok (.rleByte 0x41, []) ∧
    decodeRle [0x90, 0x00] = .ok (.rleEsc, []) ∧ decodeRle [0x90, 0x90] = .ok (.rleRun 144, []) ∧
    decodeRle [0x90] = .error .truncated := by decide

/-- V40's pairs with V40's SIT. -/
def v40Pairs : List Tab1Pair := [{ left := 0, right := 2 }, { left := 1, right := 3 }]
def v40Sit : Mem Word := [(0, 0), (1, 0x11111111), (2, 0x22222222)]

/-- V45's pairs. -/
def v45Pairs : List Tab1Pair :=
  [{ left := 10, right := 0 }, { left := 9, right := 12 }, { left := 8, right := 13 }, { left := 7, right := 14 },
    { left := 6, right := 15 }, { left := 5, right := 16 }, { left := 4, right := 17 },
    { left := 3, right := 18 }, { left := 2, right := 19 }, { left := 1, right := 20 }]
def v45Sit : Mem Word := (List.range 12).map fun i => (i, BitVec.ofNat 32 (0xA0 + i))

/-- V45's tables as the tests need them: TAB2 deferred to node 1 wherever it is looked up. -/
def v45Deep : VlcTables :=
  { tab1 := v45Pairs, tab2 := List.replicate 256 { kind := .deferred, val := 1, len := 8 }, s := 12 }

/-- V40: TAB2[v] is TERMINAL 0x11111111 for v even, ZERORUN for v mod 4 = 1, TERMINAL 0x22222222 for v mod 4 = 3. -/
theorem test_vlc_entries_v40 :
    vlcEntryFor { tab1 := v40Pairs, tab2 := [], s := 3 } v40Sit 0xFE =
      some { kind := .terminal, val := 0x11111111, len := 1 } ∧
    vlcEntryFor { tab1 := v40Pairs, tab2 := [], s := 3 } v40Sit 0x01 =
      some { kind := .zerorun, val := 0, len := 2 } ∧
    vlcEntryFor { tab1 := v40Pairs, tab2 := [], s := 3 } v40Sit 0xFF =
      some { kind := .terminal, val := 0x22222222, len := 2 } := by decide

/-- V45: a terminal at depth exactly 8, a deferred entry, a terminal at depth 1. -/
theorem test_vlc_entries_v45 :
    vlcEntryFor { tab1 := v45Pairs, tab2 := [], s := 12 } v45Sit 0x7F =
      some { kind := .terminal, val := 0xA8, len := 8 } ∧
    vlcEntryFor { tab1 := v45Pairs, tab2 := [], s := 12 } v45Sit 0xFF =
      some { kind := .deferred, val := 1, len := 8 } ∧
    vlcEntryFor { tab1 := v45Pairs, tab2 := [], s := 12 } v45Sit 0xFE =
      some { kind := .terminal, val := 0xA1, len := 1 } := by decide

/-- V43, V44: with no pair every code has length 0, a zero run where S = 1. -/
theorem test_vlc_entries_empty :
    vlcEntryFor { tab1 := [], tab2 := [], s := 1 } [] 0x5A = some { kind := .zerorun, val := 0, len := 0 } ∧
    vlcEntryFor { tab1 := [], tab2 := [], s := 2 } [(1, 0x66)] 0x5A =
      some { kind := .terminal, val := 0x66, len := 0 } := by decide

/-- R78: code `0` of V40 is a terminal; `1 0` and ten bits 1,0,1,0,... is a run of 5; eight ones, then `0`, is
V45's DEEP 9. -/
theorem test_decode_vlc :
    decodeVlc { tab1 := [], tab2 := [{ kind := .terminal, val := 0x11111111, len := 1 }], s := 3 } [false] =
      .ok (.vlcTerm [false], []) ∧
    decodeVlc { tab1 := [], tab2 := List.replicate 32 { kind := .zerorun, val := 0, len := 2 }, s := 3 }
        [true, false, true, false, true, false, false, false, false, false, false, false] =
      .ok (.vlcZrun [true, false] 5, []) ∧
    decodeVlc v45Deep (List.replicate 8 true ++ [false]) = .ok (.vlcDeep (List.replicate 8 true ++ [false]), []) := by
  decide

/-- The opcode table's own numbering (log 11). -/
theorem test_table_words : decodeTableWord 32 0x0000000F = some .clear ∧ decodeTableWord 32 0x0A = none ∧
    decodeTableWord 16 0x9000 = some .rleEsc ∧ decodeTableWord 16 0x9005 = some (.rleRun 5) ∧
    decodeTableWord 8 0x41 = some (.rleByte 0x41) := by decide

/-! ## The very next step runs a placed instruction -/

/-- R106 from reset. -/
theorem test_place_clear : shows (step (State.reset.withFetchWord 32 0x0F)) results = some [2, 0, 0, 0, 0] := by
  decide

/-- V52: VLC_DECODE right after reset has no table. -/
theorem test_place_vlcDecode :
    shows (step (State.reset.withFetchWord 32 0x09)) results = some [6, 23, 0, 0, 0] := by decide

/-- V50: an illegal command. -/
theorem test_place_illegal :
    shows (step (State.reset.withFetchWord 32 0x101)) results = some [6, 16, 0, 0, 0] := by decide

/-- V22: `90 05` as the first token of a stream faults RleNoPrevious at position 2. -/
theorem test_place_rleRun :
    shows (step (State.reset.withFetchWord 16 0x9005)) results = some [6, 21, 2, 0, 0] := by decide

/-- R193, with room. -/
theorem test_place_rleEsc :
    shows (step (({ State.reset with dstCap := 4 }).withFetchWord 16 0x9000)) output = some [some 0x90] := by
  decide

/-! ## Commands, one step each -/

/-- V1, row init: Refill loads 0x002B. -/
theorem test_lzssDec_start : shows (exec .lzssDec (ready [0x2B, 0x00, 0x41] 64 0 0)) (·.engine) =
    some (.run (latch 3 64) (.lzssDec { ip := 2, bitbuf := 0x002B, bitcnt := 16, wp := 0, total := 0 })) := by
  decide

/-- V6: one byte is no control word, and is not consumed. -/
theorem test_lzssDec_one_byte : shows (exec .lzssDec (ready [0x01] 64 0 0)) (fun t => match t.engine with
      | .run _ (.lzssDec w) => (w.ip, w.bitcnt, w.wp)
      | _ => (1, 1, 1)) = some (0, 0, 0) := by decide

/-- R145: two placeholders. -/
theorem test_lzssEnc_start : shows (exec .lzssEnc (ready [0x41] 64 0 0)) output = some [some 0, some 0] := by decide

/-- V2, row empty, from the reserved slot on: `02 00 00 00 00` and eleven `00`, SRC_USED 0. -/
theorem test_lzssEnc_end :
    shows (step { midway [] 64 (.lzssEnc { pos := 0, cw := 0, cc := 0, slot := 0 }) with
      outMem := [(0, 0), (1, 0)], dstLen := 2 }) output = some (some 0x02 :: List.replicate 15 (some 0)) := by
  decide

/-- V17: ARG0 = 0x0000010C is M = 12. -/
theorem test_lzwDec_start : shows (exec .lzwDec (ready [0x41] 64 0x10C 0)) (·.engine) =
    some (.run { latch 1 64 with a0 := 0x10C }
      (.lzwDec { p := 0, w := 9, maxW := 12, dict := [], prev := none })) := by decide

/-- V17: ARG0 = 0x80 is M = -128. -/
theorem test_lzwDec_badWidth : shows (exec .lzwDec (ready [0x41] 64 0x80 0)) results = some [6, 17, 0, 0, 0] := by
  decide

/-- V17: ARG0 = 13. -/
theorem test_lzwEnc_badWidth : shows (exec .lzwEnc (ready [0x41] 64 13 0)) results = some [6, 17, 0, 0, 0] := by
  decide

/-- R172's example: `41 41 41 41` with M = 12 gives `41 02 06 01`. -/
theorem test_lzwEnc_example :
    lzwEncodeFrom { i := 0, w := 9, maxW := 12, dict := [], pre := none, acc := [] } [0x41, 0x41, 0x41, 0x41] =
      [0x41, 0x02, 0x06, 0x01] := by decide

/-- R190. -/
theorem test_rleDec_start : shows (exec .rleDec (ready [0x41] 64 0 0)) (·.engine) =
    some (.run (latch 1 64) (.rleDec { ip := 0, last := none })) := by decide

/-- V22: `41 90` after its first byte is truncated at position 2. -/
theorem test_rleDec_truncated :
    shows (step (midway [0x41, 0x90] 64 (.rleDec { ip := 1, last := some 0x41 }))) results =
      some [6, 1, 2, 0, 0] := by decide

/-- R196's example, and V20's three 0x90. -/
theorem test_rleEnc_examples :
    rleEncodeFrom 5 [0x41, 0x41, 0x41, 0x41, 0x42] = [0x41, 0x90, 0x04, 0x42] ∧
    rleEncodeFrom 3 [0x90, 0x90, 0x90] = [0x90, 0x00, 0x90, 0x03] := by decide

theorem test_rleEnc_start : shows (exec .rleEnc (ready [0x41] 64 0 0)) (·.engine) =
    some (.run (latch 1 64) (.rleEnc { i := 0 })) := by decide

/-- V33: T0 = 1, N = 2, SRC_LEN = 12 is a SizeMismatch. -/
theorem test_waveletInv_size :
    shows (exec .waveletInv (ready (List.replicate 12 0) 64 1 2)) results = some [6, 4, 0, 0, 0] := by decide

/-- V30, V31's last row, V33's overflow. -/
theorem test_waveletInv_vectors :
    wavePasses 2 1 1 [int 5, int 3, int 2, int 1] = some [int 5, int 1, int 2, int 0] ∧
    wavePasses 2 1 1 [int (-3), int 2, int (-5), int 7] = some [int 0, int (-9), int (-2), int 3] ∧
    wavePasses 2 1 1 [int 2147483647, int 1, int 0, int 0] = none := by decide

/-- V40: the dictionary's count is 2. -/
theorem test_vlcBuild_start :
    shows (exec .vlcBuild (ready [0x02, 0x00, 0x00, 0x08, 0x80, 0x00, 0x30, 0x00, 0x00] 0 3 0)) (·.engine) =
      some (.run { latch 9 0 with a0 := 3 } (.vlcBuild { p := 13, cnt := 2, s := 3 })) := by decide

/-- Valid tables, and operands whose region lies beyond every aperture. -/
def farRegion : State := { ready [] 0 3 0 with srcOff := 0xFFFFFFFF, srcLen := 1, tabInfo := 0xC005 }

/-- R233, R280: VLC_BUILD faults BadParameter there and leaves no table valid. -/
theorem test_vlcBuild_badRegion : exec .vlcBuild farRegion =
    .next (raise .badParameter 0 (farRegion.begin 8).clearTab) := by
  have h : operandsFit (latchOf farRegion) = false := by
    rw [← Bool.not_eq_true, operandsFit_iff]
    exact fun hc => absurd (Nat.lt_of_le_of_lt hc.1 inCap_lt) (by decide)
  rw [exec, execVlcBuild, startCommand_free (by decide), checkOperands_bad (by simpa using h)]
  rfl

/-- V40's pairs. -/
theorem test_vlcBuild_pairs :
    dictPairs (ready [0x02, 0x00, 0x00, 0x08, 0x80, 0x00, 0x30, 0x00, 0x00] 0 3 0) (latch 9 0) 2 = v40Pairs := by
  decide

/-- V46: ARG0 = 8193. -/
theorem test_vlcBuild_badS : shows (exec .vlcBuild (ready [0x00, 0x00] 0 8193 0)) results =
    some [6, 17, 0, 0, 0] := by decide

/-- R241: valid tables. -/
theorem test_vlcDecode_start :
    shows (exec .vlcDecode { ready [0xAE, 0x00] 64 0 0 with tabInfo := 0xC005 }) (·.engine) =
      some (.run (latch 2 64) (.vlcDecode { p := 0, words := 0 })) := by decide

/-- R106's example: after a faulted LZW_DEC. -/
theorem test_clear : shows (exec .clear { ready [] 0 0 0 with
      status := 6, errcode := 20, errpos := 1, tabInfo := 0xC005 }) (fun t => (results t, t.tabInfo)) =
    some ([2, 0, 0, 0, 0], 0) := by decide

/-! ## Tokens, one step each -/

/-- V1 before step 1, the reader past the token's units. -/
def v1Work (ip : Nat) (buf : BitVec 16) (cnt wp : Nat) : LzssDecWork :=
  { ip := ip, bitbuf := buf, bitcnt := cnt, wp := wp, total := 0 }

def v1Bytes : List Byte := [0x2B, 0x00, 0x41, 0x42, 0xFE, 0xFC, 0x00, 0x00, 0x00]

/-- V1, step 1, as one step of the machine: LIT 41. -/
theorem test_lit : shows (step (midway v1Bytes 64 (.lzssDec (v1Work 2 0x2B 16 0)))) (fun t => (t.engine, t.win)) =
    some (.run (latch 9 64) (.lzssDec (v1Work 3 0x15 15 1)), [(0, 0x41)]) := by decide

/-- R127's example: length 3, distance 1 after one byte 41 appends `41 41 41`. -/
theorem test_sref : shows (exec (.lzssSref 3 1)
      { midway v1Bytes 64 (.lzssDec (v1Work 4 0 9 1)) with win := [(0, 0x41)] }) (fun t => winCells t.win 4) =
    some (List.replicate 4 (some 0x41)) := by decide

/-- V9: distance 2 after one byte, ERRPOS 4. -/
theorem test_sref_badDistance : shows (exec (.lzssSref 2 2)
      { midway v1Bytes 64 (.lzssDec (v1Work 4 0 9 1)) with win := [(0, 0x41)] }) results =
    some [6, 19, 4, 0, 0] := by decide

/-- V1, step 3, as one step of the machine: LREF 6,2. -/
theorem test_lref : shows (step { midway v1Bytes 64 (.lzssDec (v1Work 4 0x0A 14 2)) with
      win := [(0, 0x41), (1, 0x42)] }) (fun t => (t.engine, winCells t.win 8)) =
    some (.run (latch 9 64) (.lzssDec (v1Work 6 0x02 12 8)),
      [some 0x41, some 0x42, some 0x41, some 0x42, some 0x41, some 0x42, some 0x41, some 0x42]) := by decide

/-- V4: XREF 10,1 after LIT 41 is eleven 41. -/
theorem test_xref : shows (exec (.lzssXref 10 1)
      { midway v1Bytes 64 (.lzssDec (v1Work 6 0 9 1)) with win := [(0, 0x41)] }) (fun t => winCells t.win 11) =
    some (List.replicate 11 (some 0x41)) := by decide

/-- V4: SEG. -/
theorem test_seg : shows (exec (.lzssSeg 0x1FFF)
      { midway v1Bytes 64 (.lzssDec (v1Work 6 0 9 1)) with win := [(0, 0x41)] }) (fun t => (t.engine, t.win)) =
    some (.run (latch 9 64) (.lzssDec (v1Work 6 0 9 1)), [(0, 0x41)]) := by decide

/-- V1, step 4: END flushes, SRC_USED = 9, STATUS = 2. -/
theorem test_end : shows (exec (.lzssEnd 0)
      { midway v1Bytes 64 (.lzssDec (v1Work 9 0 10 2)) with win := [(0, 0x41), (1, 0x42)] })
      (fun t => (results t, output t)) = some ([2, 0, 0, 2, 9], [some 0x41, some 0x42]) := by decide

/-- V16's working state after its first code 65. -/
def v16Work : LzwDecWork := { p := 18, w := 9, maxW := 12, dict := [], prev := some 65 }

/-- V16, row 1: KWK 257 after 65 emits `41 41` and assigns it. -/
theorem test_kwk : shows (exec (.lzwKwk 257) (midway [] 64 (.lzwDec v16Work))) (fun t => (output t, t.engine)) =
    some ([some 0x41, some 0x41],
      .run (latch 0 64) (.lzwDec { v16Work with dict := [[0x41, 0x41]], prev := some 257 })) := by decide

/-- V16, row 2: CLR between. -/
theorem test_clr : shows (exec .lzwClr (midway [] 64 (.lzwDec { v16Work with dict := [[0x41, 0x41]] }))) (·.engine) =
    some (.run (latch 0 64) (.lzwDec { v16Work with prev := none })) := by decide

/-- R165: BYTE 42 after 41 assigns `41 42`. -/
theorem test_byte : shows (exec (.lzwByte 0x42) (midway [] 64 (.lzwDec v16Work))) (fun t => (output t, t.engine)) =
    some ([some 0x42],
      .run (latch 0 64) (.lzwDec { v16Work with dict := [[0x41, 0x42]], prev := some 66 })) := by decide

/-- R165: ENTRY 257 after 41 emits its string and assigns `41` and its first byte. -/
theorem test_entry : shows (exec (.lzwEntry 257)
      (midway [] 64 (.lzwDec { v16Work with dict := [[0x42, 0x43]] }))) (fun t => (output t, t.engine)) =
    some ([some 0x42, some 0x43],
      .run (latch 0 64) (.lzwDec { v16Work with dict := [[0x42, 0x43], [0x41, 0x42]], prev := some 257 })) := by
  decide

/-- V16, row 3: code 258 first is illegal, ERRPOS 1. -/
theorem test_lzw_badCode : shows (step (midway [0x02, 0x01] 64
      (.lzwDec { p := 0, w := 9, maxW := 12, dict := [], prev := none }))) results = some [6, 20, 1, 0, 0] := by
  decide

/-- R192. -/
theorem test_rleByte : shows (step (midway [0x41] 64 (.rleDec { ip := 0, last := none }))) (fun t =>
      (output t, t.engine)) =
    some ([some 0x41], .run (latch 1 64) (.rleDec { ip := 1, last := some 0x41 })) := by decide

/-- R195's example: `90 00` is followed by `90 03`. -/
theorem test_rleEsc : shows (step (midway [0x90, 0x00] 64 (.rleDec { ip := 0, last := none }))) (fun t =>
      (output t, t.engine)) =
    some ([some 0x90], .run (latch 2 64) (.rleDec { ip := 2, last := some 0x90 })) := by decide

/-- R195: `41 90 04` is four 41, three of them the RUN's. -/
theorem test_rleRun : shows (exec (.rleRun 4) (midway [] 64 (.rleDec { ip := 3, last := some 0x41 }))) output =
    some [some 0x41, some 0x41, some 0x41] := by decide

/-- V23: with capacity for two of the three copies left the third faults at ERRPOS 3. -/
theorem test_rleRun_overflow :
    shows (exec (.rleRun 4) (midway [] 2 (.rleDec { ip := 3, last := some 0x41 }))) results =
      some [6, 18, 3, 2, 0] := by decide

/-- A VLC_DECODE midway on V40's tables as far as a test looks them up. -/
def v40Decode (tab2 : List Tab2Entry) (p : Nat) : State :=
  { midway [0xAE, 0x00] 64 (.vlcDecode { p := p, words := 0 }) with
    tab1 := v40Pairs, tab2 := tab2, sit := v40Sit, tabInfo := 0xC005 }

/-- V41: TERM 1. -/
theorem test_term : shows (exec (.vlcTerm [false])
      (v40Decode [{ kind := .terminal, val := 0x11111111, len := 1 }] 0)) (fun t => (output t, t.engine)) =
    some (List.replicate 4 (some 0x11), .run (latch 2 64) (.vlcDecode { p := 1, words := 1 })) := by decide

/-- V44: a zero-length code. -/
theorem test_term_zeroLength : shows (exec (.vlcTerm [])
      (v40Decode [{ kind := .terminal, val := 0x66, len := 0 }] 0)) results = some [6, 24, 0, 0, 0] := by decide

/-- V41: ZRUN 5 is five zero words in twelve bits. -/
theorem test_zrun : shows (exec (.vlcZrun [true, false] 5)
      (v40Decode (List.replicate 32 { kind := .zerorun, val := 0, len := 2 }) 3)) (fun t =>
        (output t, t.engine)) =
    some (List.replicate 20 (some 0), .run (latch 2 64) (.vlcDecode { p := 15, words := 5 })) := by decide

/-- V45's decoder. -/
def v45Decode : State :=
  { midway [0xFA, 0xF7, 0xDF, 0xFF, 0x7F] 64 (.vlcDecode { p := 3, words := 2 }) with
    tab1 := v45Pairs, tab2 := v45Deep.tab2, sit := v45Sit, tabInfo := tabInfoWord 10 12 }

/-- V45: DEEP 9 is eight ones and a zero, and emits 0xA9. -/
theorem test_deep : shows (exec (.vlcDeep (List.replicate 8 true ++ [false])) v45Decode) (fun t =>
      (output t, t.engine)) =
    some ([some 0xA9, some 0, some 0, some 0], .run (latch 5 64) (.vlcDecode { p := 12, words := 3 })) := by decide

/-- V45: ten ones end on index 0, which DEEP emits as a word. -/
theorem test_deep_zero : shows (exec (.vlcDeep (List.replicate 10 true)) v45Decode) output =
    some [some 0xA0, some 0, some 0, some 0] := by decide

/-! ## The host -/

/-- P4: a SIT write kills the tables. -/
theorem test_host_sit : shows (step { ready [] 0 0 0 with
      tabInfo := 0xC005, host := [{ delay := 0, op := .writeSit 1 0x33333333 }] }) (fun t => (t.tabInfo, t.sit)) =
    some (0, [(1, 0x33333333)]) := by decide

/-- R10: a write above 11 has no effect, a read there is 0. -/
theorem test_host_above : shows (step { ready [] 7 0 0 with host := [{ delay := 0, op := .writeReg 12 5 }] })
      (fun t => regValue t 12) = some 0 := by decide

/-- R11: a CMD write while BUSY is ignored. -/
theorem test_host_busy : shows (step { midway [0x41] 64 (.rleDec { ip := 0, last := none }) with
      host := [{ delay := 0, op := .writeReg 0 0x0F }] }) (fun t => (t.cmd, t.status)) = some (0, 1) := by decide

/-- R47, D7: after the end, before the DONE read, a register write is ignored, of CMD too; after it a CMD write starts,
with no further acknowledge (R282). -/
theorem test_host_before_done : shows (step { ready [] 7 0 0 with
      status := 2, doneSeen := false, host := [{ delay := 0, op := .writeReg 6 5 }] }) (·.dstCap) = some 7 ∧
    shows (step { ready [] 7 0 0 with
      status := 6, doneSeen := false, host := [{ delay := 0, op := .writeReg 0 0x0F }] }) (·.status) = some 6 ∧
    shows (Host.Core.run core 2 { ready [] 7 0 0 with status := 6, doneSeen := false, host :=
      [{ delay := 0, op := .readReg 1 }, { delay := 0, op := .writeReg 0 0x0F }] }) (·.status) = some 2 := by
  decide

/-- R48: the STATUS read that returns DONE hands the block over. -/
theorem test_host_sees_done : shows (step { ready [] 7 0 0 with
      status := 2, doneSeen := false, host := [{ delay := 0, op := .readReg 1 }] }) (fun t =>
        (t.reads, hostOwns t)) = some ([2], true) := by decide

/-- R43: two reads of one byte of IN nothing has written return the same. -/
theorem test_host_reads_idempotent : shows (Host.Core.run core 2 { State.reset with
      host := [{ delay := 0, op := .readIn 5 }, { delay := 0, op := .readIn 5 }] }) (·.reads) =
    some (List.replicate 2 (byteReg (Config.unspecIn 0 5))) := rfl

/-- R300: reset while a command runs. -/
theorem test_host_reset : shows (step { midway [0x41] 64 (.rleDec { ip := 0, last := none }) with
      host := [{ delay := 0, op := .reset }] }) (fun t => (results t, t.engine)) =
    some ([0, 0, 0, 0, 0], .idle) := by decide

/-! ## Witnesses: the hypotheses of each statement hold together somewhere -/

theorem floor_le_inCap {x : Nat} (h : x ≤ 0x40000) : x ≤ Config.inCap :=
  Nat.le_trans h (Nat.le_add_left _ _)

theorem floor_le_outCap {x : Nat} (h : x ≤ 0x40000) : x ≤ Config.outCap :=
  Nat.le_trans h (Nat.le_add_left _ _)

/-- `op` is the host's next access. -/
def asking (s : State) (op : HostOp) : State := { s with host := [{ delay := 0, op := op }] }

theorem ready_ok (bs : List Byte) (cap : Nat) (a0 a1 : Reg)
    (hr : (ready bs cap a0 a1).srcLen.toNat ≤ 0x40000) (hc : (ready bs cap a0 a1).dstCap.toNat ≤ 0x40000)
    (hw : ∀ k < (ready bs cap a0 a1).srcLen.toNat, (Mem.read (cells bs) k).isSome = true) :
    ReadyToStart (ready bs cap a0 a1) where
  idle := by show (0 : Reg).getLsbD 0 = false; decide
  region := floor_le_inCap (by simpa [ready, State.reset] using hr)
  capacity := floor_le_outCap hc
  written := by simpa [ready, State.reset] using hw

/-! ### Encodings -/

theorem wit_DecodeEncodeAgree :
    let ctx : DecodeCtx := { lzw := { next := 258, maxW := 9, havePrev := true }, vlc := v45Deep }
    (∀ i ∈ [Instr.lzssSref 2 256, .lzssLref 9 8192, .lzssXref 256 1, .lzssEnd 8191, .lzwEntry 257, .lzwKwk 258,
        .rleRun 255, .vlcDeep (List.replicate 8 true ++ [false])],
      i.wellFormed = true ∧ i.fits ctx = true) ∧
    (let short : VlcTables := { tab1 := [], tab2 := [{ kind := .terminal, val := 7, len := 1 },
        { kind := .zerorun, val := 0, len := 8 }], s := 3 }
     ∀ i ∈ [Instr.vlcTerm [false], .vlcZrun [true, false, false, false, false, false, false, false] 1023],
      i.wellFormed = true ∧ i.fits { ctx with vlc := short } = true) := by decide

theorem wit_LzwCodeClasses :
    let ctx : LzwCtx := { next := 258, maxW := 9, havePrev := true }
    let full : LzwCtx := { next := 512, maxW := 9, havePrev := true }
    257 ≤ ctx.next ∧ 255 < 256 ∧ 257 < ctx.next ∧ (ctx.havePrev = true ∧ ctx.next < 2 ^ ctx.maxW) ∧
      { ctx with havePrev := false }.havePrev = false ∧ 2 ^ full.maxW ≤ full.next ∧ ctx.next < 259 := by decide

/-- The tables of one pair of terminals: code `0` is the zero run, code `1` is index 1. -/
def onePair : List Tab1Pair := [{ left := 0, right := 1 }]
def onePairSit : Mem Word := [(1, 7)]

/-- The TAB2 of tables whose SIT is written. -/
@[irreducible] def tab2Of (tab1 : List Tab1Pair) (sc : Nat) (sit : Mem Word) : List Tab2Entry :=
  (vlcDeriveTab2 tab1 sc sit).getD []

theorem tab2Of_derives {tab1 : List Tab1Pair} {sc : Nat} {sit : Mem Word}
    (h : (vlcDeriveTab2 tab1 sc sit).isSome = true) : vlcDeriveTab2 tab1 sc sit = some (tab2Of tab1 sc sit) := by
  obtain ⟨t, ht⟩ := Option.isSome_iff_exists.1 h
  rw [tab2Of, ht, Option.getD_some]

def onePairTab2 : List Tab2Entry := tab2Of onePair 2 onePairSit

theorem onePair_derives : vlcDeriveTab2 onePair 2 onePairSit = some onePairTab2 :=
  tab2Of_derives (by decide +kernel)

theorem onePair_built : TablesBuilt { tab1 := onePair, tab2 := onePairTab2, s := 2 } onePairSit :=
  ⟨by decide, by decide, by decide, fun pr h => by simp [onePair] at h; subst h; decide,
    by dsimp only; exact onePair_derives⟩

/-- Code `1` is a terminal and code `0` the zero run; V45's tables have a terminal eight bits deep and, past eight
ones, node 1. -/
theorem wit_Tab2IsACacheOfTab1 :
    let t : VlcTables := { tab1 := onePair, tab2 := onePairTab2, s := 2 }
    let deep : VlcTables := { tab1 := v45Pairs, tab2 := tab2Of v45Pairs 12 v45Sit, s := 12 }
    TablesBuilt t onePairSit ∧ vlcDescend t (vlcRoot t) [true] = some (.leaf 1, 1) ∧ 1 ≤ 8 ∧ 1 ≠ 0 ∧
      vlcDescend t (vlcRoot t) [false] = some (.leaf 0, 1) ∧
      TablesBuilt deep v45Sit ∧
      vlcDescend deep (vlcRoot deep) (List.replicate 7 true ++ [false]) = some (.leaf 8, 8) ∧
      8 ≤ (List.replicate 8 true).length ∧
      vlcDescend deep (vlcRoot deep) ((List.replicate 8 true).take 8) = some (.inner 1, 8) :=
  ⟨onePair_built, by decide, by decide, by decide, by decide,
    ⟨by decide, by decide, by decide, by decide, tab2Of_derives (by decide +kernel)⟩, by decide, by decide, by decide⟩

/-! ### Reset and the step -/

/-- An RLE_DEC before its first token, on a literal, an escape and a run. -/
def rleMid (ip : Nat) : State := midway [0x41, 0x90, 0x00, 0x90, 0x04, 0x90] 64 (.rleDec { ip := ip, last := some 0x41 })

theorem wit_ResetLeavesTheBlockIdle : State.reset.engine = .idle ∧ State.reset.host = [] ∧
    (asking (rleMid 0) .reset).host = { delay := 0, op := .reset } :: [] := by decide

theorem wit_CommandWriteRunsTheCommand : decodeCommand 0x0F = .ok .clear ∧ encode .clear = .command 0x0F ∧
    busy State.reset = false ∧ State.reset.doneSeen = true ∧
    (asking State.reset (.writeReg 0 0x0F)).host = { delay := 0, op := .writeReg 0 0x0F } :: [] := by decide

theorem wit_RleStepRunsTheToken :
    (∀ p ∈ [(0, [0x41], Instr.rleByte 0x41), (1, [0x90, 0x00], .rleEsc), (3, [0x90, 0x04], .rleRun 4)],
      (rleMid p.1).host = [] ∧ (rleMid p.1).engine = .run (latch 6 64) (.rleDec { ip := p.1, last := some 0x41 }) ∧
      p.2.2.wellFormed = true ∧ encode p.2.2 = .rle p.2.1 ∧ p.1 + p.2.1.length ≤ 0 + 6 ∧
      inBytes (rleMid p.1) p.1 p.2.1.length = p.2.1) ∧
    (rleMid 5).host = [] ∧ (rleMid 5).engine = .run (latch 6 64) (.rleDec { ip := 5, last := some 0x41 }) ∧
    5 + 1 = (latch 6 64).off + (latch 6 64).n ∧ inByte (rleMid 5) 5 = 0x90 := by decide

/-- V1's stream before its third token. -/
def lzssMid : State :=
  { midway v1Bytes 64 (.lzssDec (v1Work 4 0x0A 14 2)) with win := [(0, 0x41), (1, 0x42)] }

theorem wit_LzssStepRunsTheToken : lzssMid.host = [] ∧
    lzssMid.engine = .run (latch 9 64) (.lzssDec (v1Work 4 0x0A 14 2)) ∧
    (Instr.lzssLref 6 2).wellFormed = true ∧ (encode (.lzssLref 6 2)).lzssUnits ≠ [] ∧
    lzssReads lzssMid (latch 9 64) (encode (.lzssLref 6 2)).lzssUnits (v1Work 4 0x0A 14 2) =
      some (v1Work 6 0x02 12 2) := by decide

/-- V12's stream `41 02 06 01` before its first code and after it. -/
def lzwMid (p : Nat) (prev : Option Nat) : State :=
  midway [0x41, 0x02, 0x06, 0x01] 64 (.lzwDec { p := p, w := 9, maxW := 12, dict := [], prev := prev })

theorem wit_LzwStepRunsTheCode :
    (lzwMid 0 none).host = [] ∧
    (lzwMid 0 none).engine = .run (latch 4 64) (.lzwDec { p := 0, w := 9, maxW := 12, dict := [], prev := none }) ∧
    0 + 9 ≤ 8 * (latch 4 64).n ∧
    decodeLzw { next := 257 + 0, maxW := 12, havePrev := false }
      (bitsToNat (inBitList (lzwMid 0 none) (latch 4 64) 0 9)) = .ok (.lzwByte 0x41) ∧
    decodeLzw { next := 257 + 0, maxW := 12, havePrev := true }
      (bitsToNat (inBitList (lzwMid 9 (some 65)) (latch 4 64) 9 9)) = .ok (.lzwKwk 257) := by decide

/-- A VLC_DECODE on the one-pair tables, at bit `p` of one byte, with word limit `a1`. -/
def vlcMid (p words a1 : Nat) : State :=
  { midway [0x01] 64 (.vlcDecode { p := p, words := words }) with
    tab1 := onePair, tab2 := onePairTab2, sit := onePairSit, tabInfo := tabInfoWord 1 2
    arg1 := BitVec.ofNat 32 a1
    engine := .run { latch 1 64 with a1 := a1 } (.vlcDecode { p := p, words := words }) }

theorem wit_VlcStepRunsTheToken :
    (vlcMid 0 0 0).host = [] ∧
    (vlcMid 0 0 0).engine = .run { latch 1 64 with a1 := 0 } (.vlcDecode { p := 0, words := 0 }) ∧
    0 < 8 * (latch 1 64).n ∧
    decodeVlc (tablesOf (vlcMid 0 0 0)) (inBitList (vlcMid 0 0 0) (latch 1 64) 0 8) =
      .ok (.vlcTerm [true], List.replicate 7 false) ∧
    (1 ≠ 0 ∧ 1 ≤ 1) ∧ (8 * (latch 1 64).n ≤ 8) ∧
    decodeVlc (tablesOf (vlcMid 1 1 0)) (inBitList (vlcMid 1 1 0) (latch 1 64) 1 7) = .error .endOfChunk := by
  decide +kernel

/-! ### The command frame -/

/-- While a command runs, and between its end and the DONE read. -/
theorem wit_HostWritesIgnoredWhileEngineOwns : busy (rleMid 0) = true ∧ 0x3FFFF + 1 ≤ Config.inCap ∧ 8191 < 8192 ∧
    (let s : State := { State.reset with status := 2, doneSeen := false }
     busy s = false ∧ s.doneSeen = false) :=
  ⟨by decide, floor_le_inCap (by decide), by decide, by decide, rfl⟩

theorem wit_IllegalCommandFaults :
    (∀ i, encode i ≠ .command 0x0A) ∧ busy State.reset = false ∧ State.reset.doneSeen = true := by
  refine ⟨fun i => ?_, rfl, rfl⟩
  cases i <;> simp [encode, commandWord]

/-- A region that reaches 2^32, beyond every IN_CAP; the largest capacity, beyond every OUT_CAP but one. -/
theorem wit_OperandCheckFaultsBadParameter :
    (isCommand .rleDec = true ∧ Instr.rleDec ≠ .clear) ∧
    (let s : State := { State.reset with srcOff := 0xFFFFFFFF, srcLen := 1 }
     busy s = false ∧ Config.inCap < s.srcOff.toNat + s.srcLen.toNat) ∧
    isCommand .vlcBuild = true ∧ Instr.vlcBuild ≠ .clear ∧
    (Config.outCap ≠ 2 ^ 32 - 1 → Config.outCap < (0xFFFFFFFF : Reg).toNat) := by
  refine ⟨by decide, ⟨rfl, Nat.lt_of_lt_of_le inCap_lt (by decide)⟩, by decide, by decide, fun h => ?_⟩
  have ho := outCap_lt
  exact Nat.lt_of_le_of_ne (Nat.le_of_lt_succ ho) h

/-- A state whose region's last byte was never written, all checks of `i` passed. -/
def unwritten (n cap : Nat) (a0 a1 tab : Reg) : State :=
  { State.reset with srcLen := BitVec.ofNat _ n, dstCap := BitVec.ofNat _ cap, arg0 := a0, arg1 := a1, tabInfo := tab }

/-- Every command that reads its region, a WAVELET_INV of one cell and a dictionary of 16 bits among them; a token of
each stream while the engine is idle and while another decoder runs. -/
theorem wit_StopsOutsideTheSpec :
    (∀ p ∈ [(Instr.lzssDec, unwritten 1 0 0 0 0), (.lzssEnc, unwritten 1 0 0 0 0), (.rleDec, unwritten 1 0 0 0 0),
        (.rleEnc, unwritten 1 0 0 0 0), (.lzwDec, unwritten 1 0 9 0 0), (.lzwEnc, unwritten 1 0 12 0 0),
        (.waveletInv, unwritten 4 4 1 1 0), (.vlcBuild, unwritten 2 0 8192 0 0), (.vlcDecode, unwritten 1 0 0 0 1)],
      isCommand p.1 = true ∧ p.1 ≠ .clear ∧ busy p.2 = false ∧ p.2.srcOff.toNat + p.2.srcLen.toNat ≤ Config.inCap ∧
        p.2.dstCap.toNat ≤ Config.outCap ∧ OwnChecksPass p.1 p.2 ∧ 0 < p.2.srcLen.toNat ∧
        Mem.read p.2.inMem (p.2.srcOff.toNat + 0) = none) ∧
    (isCommand .rleEsc = false ∧ State.reset.engine = .idle) ∧
    (isCommand .lzwClr = false ∧ ∀ w, (rleMid 0).engine = .run (latch 6 64) w → ¬ fetchedBy (encode .lzwClr) w) := by
  refine ⟨fun p hp => ?_, ⟨rfl, rfl⟩, rfl, fun w hw ⟨d, hd⟩ => ?_⟩
  · simp only [List.mem_cons, List.not_mem_nil, or_false] at hp
    rcases hp with rfl | rfl | rfl | rfl | rfl | rfl | rfl | rfl | rfl
    all_goals
      exact ⟨rfl, by decide, rfl, floor_le_inCap (by decide), floor_le_outCap (by decide),
        ⟨by decide, fun h => ⟨by revert h; decide, ⟨0, by revert h; decide⟩, by revert h; decide, by revert h; decide,
          by revert h; decide⟩, by decide, by decide⟩, by decide, rfl⟩
  · subst hd
    simp [rleMid, midway] at hw

theorem wit_ClearResult : busy State.reset = false := rfl

/-- Regions of two bytes and of one, capacities 2 and 1. -/
theorem wit_RleAndLzssCommandsStart :
    (ReadyToStart (ready [0x2B, 0x00] 2 0 0) ∧ 2 ≤ (ready [0x2B, 0x00] 2 0 0).dstCap.toNat) ∧
    (ReadyToStart (ready [0x2B] 1 0 0) ∧ (ready [0x2B] 1 0 0).dstCap.toNat < 2) :=
  ⟨⟨ready_ok _ _ _ _ (by decide) (by decide) (by decide), by decide⟩,
    ready_ok _ _ _ _ (by decide) (by decide) (by decide), by decide⟩

/-- `max_code_width` 9, 12, 8, 13 and -1. -/
theorem wit_LzwCommandsStart :
    (∀ a : Reg, ReadyToStart (ready [0x41] 64 a 0)) ∧
    ((9 : Word).setWidth 8).toInt = 9 ∧ ((12 : Word).setWidth 8).toInt = 12 ∧ ((8 : Word).setWidth 8).toInt = 8 ∧
    ((13 : Word).setWidth 8).toInt = 13 ∧ ((0xFF : Word).setWidth 8).toInt = -1 :=
  ⟨fun _ => ready_ok _ _ _ _ (by decide : (1 : Word).toNat ≤ _) (by decide : (64 : Word).toNat ≤ _)
      (by decide : ∀ k < (1 : Word).toNat, (Mem.read (cells [0x41]) k).isSome = true),
    by decide, by decide, by decide, by decide, by decide⟩

/-- T0 = 0; N < T0; N too large; N no power of two above T0; a plane of one cell, of one byte too few, with one byte
too little room, and right. -/
theorem wit_WaveletInvStarts :
    (∀ (bs : List Byte) (cap : Nat) (a0 a1 : Reg), (bs, cap) ∈ [([1, 0, 0, 0], 4), ([1, 0, 0], 4), ([1, 0, 0, 0], 3)] →
      ReadyToStart (ready bs cap a0 a1)) ∧
    0 < 1 ∧ 1 < 2 ∧ 0x10000 < 257 * 257 ∧ (∀ k, 3 ≠ 1 * 2 ^ k) ∧ (1 ≤ 1 ∧ 256 * 256 ≤ 0x10000 ∧ ∃ k, 256 = 1 * 2 ^ k) ∧
    (3 ≠ 4 * (1 * 1)) ∧ (4 = 4 * (1 * 1) ∧ 3 < 4 * (1 * 1)) ∧ 4 * (1 * 1) ≤ 4 := by
  refine ⟨fun bs cap a0 a1 h => ?_, by decide, by decide, by decide, fun k => ?_, ⟨by decide, by decide, 8, rfl⟩,
    by decide, by decide, by decide⟩
  · simp only [List.mem_cons, Prod.mk.injEq, List.not_mem_nil, or_false] at h
    rcases h with ⟨rfl, rfl⟩ | ⟨rfl, rfl⟩ | ⟨rfl, rfl⟩
    · exact ready_ok _ _ _ _ (by decide : (4 : Word).toNat ≤ _) (by decide : (4 : Word).toNat ≤ _)
        (by decide : ∀ k < (4 : Word).toNat, (Mem.read (cells [1, 0, 0, 0]) k).isSome = true)
    · exact ready_ok _ _ _ _ (by decide : (3 : Word).toNat ≤ _) (by decide : (4 : Word).toNat ≤ _)
        (by decide : ∀ k < (3 : Word).toNat, (Mem.read (cells [1, 0, 0]) k).isSome = true)
    · exact ready_ok _ _ _ _ (by decide : (4 : Word).toNat ≤ _) (by decide : (3 : Word).toNat ≤ _)
        (by decide : ∀ k < (4 : Word).toNat, (Mem.read (cells [1, 0, 0, 0]) k).isSome = true)
  · rcases k with _ | _ | k
    · decide
    · decide
    · have := Nat.one_le_two_pow (n := k)
      rw [Nat.pow_succ, Nat.pow_succ]
      omega

/-- S = 0 and 8193; a dictionary of one byte, one short of its pairs, and one that is whole; tables valid and not. -/
theorem wit_VlcCommandsStart :
    ReadyToStart (ready [0x00] 0 1 0) ∧ 8 * (ready [0x00] 0 1 0).srcLen.toNat < 13 ∧
    ReadyToStart (ready [0x02, 0, 0, 0] 0 8192 0) ∧
    8 * (ready [0x02, 0, 0, 0] 0 8192 0).srcLen.toNat <
      13 + 26 * inField (ready [0x02, 0, 0, 0] 0 8192 0) (latchOf (ready [0x02, 0, 0, 0] 0 8192 0)) 0 13 ∧
    ReadyToStart (ready [0x00, 0x00] 0 1 0) ∧ 13 ≤ 8 * (ready [0x00, 0x00] 0 1 0).srcLen.toNat ∧
    13 + 26 * inField (ready [0x00, 0x00] 0 1 0) (latchOf (ready [0x00, 0x00] 0 1 0)) 0 13 ≤
      8 * (ready [0x00, 0x00] 0 1 0).srcLen.toNat ∧
    (ready [] 0 0 0).arg0.toNat < 1 ∧ 8192 < (ready [] 0 8193 0).arg0.toNat ∧
    tabValid (ready [] 0 0 0) = false ∧ tabValid { ready [] 0 0 0 with tabInfo := 1 } = true :=
  ⟨ready_ok _ _ _ _ (by decide) (by decide) (by decide), by decide,
    ready_ok _ _ _ _ (by decide) (by decide) (by decide), by decide,
    ready_ok _ _ _ _ (by decide) (by decide) (by decide), by decide, by decide, by decide, by decide, by decide,
    by decide⟩

/-! ### Faults, output, RLE -/

/-- The last position; an output that just fits and one that does not. -/
theorem wit_RaiseAndEmit : 4294967295 < 2 ^ 32 ∧ Room State.reset (latch 0 2) [1, 2].length ∧
    NoRoom State.reset (latch 0 2) [1, 2, 3].length :=
  ⟨by decide, ⟨by decide, by decide⟩, by decide, by decide, by decide⟩

/-- Every clause without room for its output's last byte: a run; a slide at the window's last cell and END and the soft
end of one byte; a code; a word; a group and an input byte of an encoder, and its last code. -/
theorem wit_OutputWithoutRoom :
    (let w : RleDecWork := { ip := 1, last := some 0x41 }
     (midway [] 0 (.rleDec w)).engine = .run (latch 0 0) (.rleDec w) ∧ NoRoom (midway [] 0 (.rleDec w)) (latch 0 0) 1 ∧
       NoRoom (midway [] 253 (.rleDec w)) (latch 0 253) (255 - 1)) ∧
    (let s := (midway v1Bytes 0x1FFF (.lzssDec (v1Work 4 0x0A 14 0x4000)))
     s.engine = .run (latch 9 0x1FFF) (.lzssDec (v1Work 4 0x0A 14 0x4000)) ∧ NoRoom s (latch 9 0x1FFF) 0x2000 ∧
       0x4000 ≤ (v1Work 4 0x0A 14 0x4000).wp ∧ (Instr.lzssSref 2 1).wellFormed = true ∧ 1 ≤ 0 + 0x4000 ∧
       0x4000 < 0x4000 + 2) ∧
    (let s := midway [] 0 (.lzssDec (v1Work 0 0 0 1))
     s.host = [] ∧ s.engine = .run (latch 0 0) (.lzssDec (v1Work 0 0 0 1)) ∧ NoRoom s (latch 0 0) 1) ∧
    (let w : LzwDecWork := { v16Work with dict := [[0x42, 0x43]] }
     let s := midway [] 1 (.lzwDec w)
     s.engine = .run (latch 0 1) (.lzwDec w) ∧ w.dict[257 - 257]? = some [0x42, 0x43] ∧
       NoRoom s (latch 0 1) [(0x42 : Byte), 0x43].length ∧ w.prev = some 65 ∧ lzwString w.dict 65 = some [0x41] ∧
       257 + w.dict.length < 2 ^ w.maxW ∧ NoRoom s (latch 0 1) (0 + 2)) ∧
    (let s (e : Tab2Entry) : State := { v45Decode with
        tab2 := List.replicate 256 e, engine := .run (latch 5 3) (.vlcDecode { p := 3, words := 2 }) }
     NoRoom (s { kind := .terminal, val := 7, len := 1 }) (latch 5 3) 4 ∧
       (s { kind := .terminal, val := 7, len := 1 }).tab2[bitsToNat ([true].take 8)]? =
         some { kind := .terminal, val := 7, len := [true].length } ∧
       (s { kind := .zerorun, val := 0, len := 0 }).tab2[bitsToNat (([] ++ natToBits 1 10).take 8)]? =
         some { kind := .zerorun, val := 0, len := ([] : List Bool).length } ∧ NoRoom v45Decode (latch 5 3) (4 * 1) ∧
       Mem.read v45Decode.sit 9 = some 0xA9) ∧
    (let s := midway [0x41] 0 (.rleEnc { i := 0 })
     s.host = [] ∧ s.engine = .run (latch 1 0) (.rleEnc { i := 0 }) ∧ 0 < (latch 1 0).n ∧
       NoRoom s (latch 1 0) (rleGroup ((regionBytes s (latch 1 0)).drop 0)).1.length) ∧
    (let w : LzssEncWork := { pos := 0, cw := 0, cc := 15, slot := 0 }
     let s (cap : Nat) : State := { midway [0x41] cap (.lzssEnc w) with outMem := [(0, 0), (1, 0)], dstLen := 2 }
     let v : LzssEncWork := { w with pos := 1, cc := 1 }
     let e : State := { midway [0x41] 15 (.lzssEnc v) with outMem := [(0, 0), (1, 0)], dstLen := 2 }
     (s 4).host = [] ∧ (s 4).engine = .run (latch 1 4) (.lzssEnc w) ∧ LzssEncOk (s 4) (latch 1 4) w ∧
       w.pos < (latch 1 4).n ∧ lzssChoose (inByte (s 4) (0 + 0)) (bestMatch (regionBytes (s 4) (latch 1 4)) 0) = .lzssLit 0x41 ∧
       lzssUnitBytes 15 (encode (.lzssLit 0x41)).lzssUnits = 3 ∧ NoRoom (s 4) (latch 1 4) 3 ∧
       e.engine = .run (latch 1 15) (.lzssEnc v) ∧ LzssEncOk e (latch 1 15) v ∧ v.pos = (latch 1 15).n ∧
       lzssUnitBytes 1 (encode (.lzssEnd 0)).lzssUnits = 3 ∧ NoRoom e (latch 1 15) (3 + (16 - (2 + 3) % 16) % 16)) ∧
    (let w : LzwEncWork := { i := 1, w := 9, maxW := 12, dict := [], pre := some 0x41, acc := [] }
     let s := midway [0x41, 0x42] 0 (.lzwEnc w)
     s.host = [] ∧ s.engine = .run (latch 2 0) (.lzwEnc w) ∧ w.i < (latch 2 0).n ∧
       NoRoom s (latch 2 0) (lzwEncByte w (inByte s (0 + 1))).1.length ∧
       w.i = (latch 1 0).n ∧ NoRoom s (latch 1 0) (lzwEncTail w).length) := by
  refine ⟨⟨rfl, ?_, ?_⟩, ⟨rfl, ?_, ?_, ?_, ?_, ?_⟩, ⟨rfl, rfl, ?_⟩, ⟨rfl, rfl, ?_, rfl, ?_, ?_, ?_⟩,
    ⟨?_, ?_, ?_, ?_, ?_⟩, ⟨rfl, rfl, ?_, ?_⟩,
    ⟨rfl, rfl, ?_, ?_, by decide, by decide, ?_, rfl, ?_, rfl, by decide, ?_⟩, rfl, rfl, ?_, ?_, rfl, ?_⟩
  all_goals first
    | decide
    | exact ⟨by decide, by decide, by decide⟩
    | exact ⟨by decide, by decide, by decide, by decide, by decide⟩

/-- Room for one byte and no more; runs of 1 and 255; a first token. -/
theorem wit_RleTokenResults :
    let w : RleDecWork := { ip := 1, last := some 0x41 }
    ((midway [] 1 (.rleDec w)).engine = .run (latch 0 1) (.rleDec w) ∧ Room (midway [] 1 (.rleDec w)) (latch 0 1) 1 ∧
      Room (midway [] 1 (.rleDec w)) (latch 0 1) (1 - 1) ∧ w.last = some 0x41) ∧
    Room (midway [] 254 (.rleDec w)) (latch 0 254) (255 - 1) ∧ { w with last := none }.last = none := by
  refine ⟨⟨rfl, ⟨by decide, by decide⟩, ⟨by decide, by decide⟩, rfl⟩, ⟨by decide, by decide⟩, rfl⟩

/-- A run of one, of two and of three, the last of 90; and one cut at 255. -/
theorem wit_RleWholeRuns_groups :
    (∀ p ∈ [([(0x41 : Byte), 0x42], 1), ([0x41, 0x41], 2), ([0x90, 0x90, 0x90, 0x41], 3)],
      1 ≤ p.2 ∧ p.2 ≤ 255 ∧ (∀ k < p.2, p.1[k]? = p.1.head?) ∧ p.1[p.2]? ≠ p.1.head?) ∧
    (∀ k < 255, (List.replicate 256 (0x41 : Byte))[k]? = some 0x41) := by decide +kernel

theorem wit_RleWholeRuns :
    let e := midway [0x41, 0x41, 0x41, 0x41, 0x42] 4 (.rleEnc { i := 0 })
    let d := midway [0x41, 0x90, 0x04, 0x42] 5 (.rleDec { ip := 0, last := none })
    (e.host = [] ∧ e.engine = .run (latch 5 4) (.rleEnc { i := 0 }) ∧
      Room e (latch 5 4) (rleEncodeFrom 5 (regionBytes e (latch 5 4))).length) ∧
    (d.host = [] ∧ d.engine = .run (latch 4 5) (.rleDec { ip := (latch 4 5).off, last := none }) ∧
      rleDecodeFrom (4 + 1) none (regionBytes d (latch 4 5)) = some [0x41, 0x41, 0x41, 0x41, 0x42] ∧
      Room d (latch 4 5) [0x41, 0x41, 0x41, 0x41, 0x42].length) := by
  refine ⟨⟨rfl, rfl, by decide, by decide⟩, rfl, rfl, by decide, by decide, by decide⟩

/-! ### LZSS -/

theorem lzssMid_ok : LzssDecOk lzssMid (latch 9 64) (v1Work 4 0x0A 14 2) where
  wp_le := by decide
  written := by decide
  total_eq := by decide
  history := .inl rfl
  bitcnt_le := by decide
  ip_ge := by decide
  ip_le := by decide
  cap_lt := by decide
  len_le := by decide

/-- Cells `0 .. n-1`, all 41. -/
def fullCells (n : Nat) : Memory := (List.range' 0 n).map fun i => (i, 0x41)

theorem fullCells_read (n k a : Nat) (h : k ≤ a ∧ a < k + n) :
    Mem.read ((List.range' k n).map fun i => (i, (0x41 : Byte))) a = some 0x41 := by
  induction n generalizing k with
  | zero => omega
  | succ n ih =>
    rw [List.range'_succ, List.map_cons, Mem.read]
    by_cases ha : a = k
    · rw [if_pos ha]
    · rw [if_neg ha, ih _ (by omega)]

/-- A window filled to its last cell before a slide, with room for the flush and nothing else. -/
def fullWork : LzssDecWork := v1Work 4 0x0A 14 0x4000
def fullWindow : State := (midway v1Bytes 0x2000 (.lzssDec fullWork)).setWin (fullCells 0x4000)

theorem fullWindow_ok : LzssDecOk fullWindow (latch 9 0x2000) fullWork where
  wp_le := by decide
  written := fun a ha => by
    rw [fullWindow, setWin_win, fullCells, fullCells_read _ _ _ ⟨Nat.zero_le a, by simpa [fullWork, v1Work] using ha⟩]
    rfl
  total_eq := by decide
  history := .inl rfl
  bitcnt_le := by decide
  ip_ge := by decide
  ip_le := by decide
  cap_lt := by decide
  len_le := by decide

/-- A copy of two at distance 2, all there is; one at distance 3, too far; a slide. -/
theorem wit_LzssTokensExtendHistory :
    (lzssMid.engine = .run (latch 9 64) (.lzssDec (v1Work 4 0x0A 14 2)) ∧
      LzssDecOk lzssMid (latch 9 64) (v1Work 4 0x0A 14 2) ∧ (Instr.lzssSref 2 2).wellFormed = true ∧
      2 ≤ (v1Work 4 0x0A 14 2).total + (v1Work 4 0x0A 14 2).wp ∧ (v1Work 4 0x0A 14 2).wp + 2 ≤ 0x4000 ∧
      (v1Work 4 0x0A 14 2).total + (v1Work 4 0x0A 14 2).wp < 3) ∧
    (fullWindow.engine = .run (latch 9 0x2000) (.lzssDec fullWork) ∧
      LzssDecOk fullWindow (latch 9 0x2000) fullWork ∧ Room fullWindow (latch 9 0x2000) 0x2000 ∧
      (Instr.lzssXref 256 8192).wellFormed = true ∧ 8192 ≤ fullWork.total + fullWork.wp) :=
  ⟨⟨rfl, lzssMid_ok, by decide, by decide, by decide, by decide⟩,
    rfl, fullWindow_ok, ⟨by decide, by decide⟩, by decide, by decide⟩

theorem wit_LzssSegAndEndResults :
    lzssMid.engine = .run (latch 9 64) (.lzssDec (v1Work 4 0x0A 14 2)) ∧ (v1Work 4 0x0A 14 2).wp ≤ 0x4000 ∧
    fullWork.wp ≤ 0x4000 ∧ LzssDecOk lzssMid (latch 9 64) (v1Work 4 0x0A 14 2) ∧
    Room lzssMid (latch 9 64) (v1Work 4 0x0A 14 2).wp :=
  ⟨rfl, by decide, by decide, lzssMid_ok, by decide, by decide⟩

/-- V6's stream at its end, and V8's inside a token. -/
theorem wit_LzssExhaustion :
    (let w := v1Work 2 0 0 0
     let s := midway [0xFF, 0xFF] 0 (.lzssDec w)
     s.host = [] ∧ s.engine = .run (latch 2 0) (.lzssDec w) ∧ LzssDecOk s (latch 2 0) w ∧ Room s (latch 2 0) w.wp ∧
       w.bitcnt = 0) ∧
    (let w := v1Work 3 0 15 1
     let s := midway [0x01, 0x00, 0x41] 64 (.lzssDec w)
     s.host = [] ∧ s.engine = .run (latch 3 64) (.lzssDec w) ∧
       (Instr.lzssSref 2 256).wellFormed = true ∧
       (encode (.lzssSref 2 256)).lzssUnits = [.bit false, .bit false, .bit false, .bit false] ++ [.byte 0] ∧
       lzssReads s (latch 3 64) [.bit false, .bit false, .bit false, .bit false] w = some { w with bitcnt := 11 } ∧
       0 + 3 ≤ { w with bitcnt := 11 }.ip) ∧
    (let w := v1Work 2 0 1 1
     let s := midway [0x01, 0x00, 0x41] 64 (.lzssDec w)
     (encode (.lzssSref 2 256)).lzssUnits = [.bit false] ++ .bit false :: [.bit false, .bit false, .byte 0] ∧
       lzssReads s (latch 3 64) [.bit false] w = some { w with bitcnt := 0 }) := by
  refine ⟨⟨rfl, rfl, ⟨by decide, by decide, by decide, .inl rfl, by decide, by decide, by decide, by decide,
    by decide⟩, ⟨by decide, by decide⟩, rfl⟩, ⟨rfl, rfl, by decide, by decide, by decide, by decide⟩, by decide, by decide⟩

theorem wit_BestMatchIsLongestAndClosest :
    let d : List Byte := [0x41, 0x42, 0x41, 0x42, 0x41, 0x42, 0x41, 0x42]
    2 ≤ d.length ∧ bestMatch d 2 = (6, 2) ∧ (1 ≤ 2 ∧ 2 ≤ 8192 ∧ 2 ≤ 2 ∧ 6 ≤ 253 ∧ 2 + 6 ≤ d.length) ∧
      (∀ k < 6, d[2 + k]? = d[2 - 2 + k]?) := by decide

/-- Either side of each boundary of R150. -/
theorem test_forms : lzssChoose 0x41 (1, 1) = .lzssLit 0x41 ∧ lzssChoose 0x41 (2, 255) = .lzssSref 2 255 ∧
    lzssChoose 0x41 (2, 256) = .lzssLit 0x41 ∧ lzssChoose 0x41 (3, 256) = .lzssSref 3 256 ∧
    lzssChoose 0x41 (5, 256) = .lzssSref 5 256 ∧ lzssChoose 0x41 (5, 257) = .lzssLref 5 257 ∧
    lzssChoose 0x41 (6, 1) = .lzssLref 6 1 ∧ lzssChoose 0x41 (9, 8192) = .lzssLref 9 8192 ∧
    lzssChoose 0x41 (10, 1) = .lzssXref 10 1 := by decide

/-- The same boundaries as hypotheses, and a whole search. -/
theorem wit_LzssChosenTokenIsEncodable :
    (1 < 2 ∧ (2 = 2 ∧ 256 ≤ 256)) ∧
    (∀ p ∈ [(2, 255), (3, 256), (5, 256)], 2 ≤ p.1 ∧ p.1 ≤ 5 ∧ p.2 ≤ 256 ∧ ¬ (p.1 = 2 ∧ p.2 = 256)) ∧
    (∀ p ∈ [(3, 257), (5, 257), (6, 1), (9, 8192)], 3 ≤ p.1 ∧ p.1 ≤ 9 ∧ (5 < p.1 ∨ 256 < p.2)) ∧ 10 ≤ 10 ∧
    let d : List Byte := [0x41, 0x42, 0x41, 0x42, 0x41, 0x42, 0x41, 0x42]
    2 < d.length ∧ lzssChoose 0x41 (bestMatch d 2) = .lzssLref 6 2 ∧
      lzssChoose 0x41 (bestMatch d 0) = .lzssLit 0x41 := by decide

/-- The 15th bit and the 16th. -/
theorem wit_LzssWriterPutsBits :
    let s : State := { midway [] 4 (.lzssEnc { pos := 0, cw := 0, cc := 15, slot := 0 }) with
      outMem := [(0, 0), (1, 0)], dstLen := 2 }
    LzssEncOk s (latch 0 4) { pos := 0, cw := 0, cc := 14, slot := 0 } ∧
      LzssEncOk s (latch 0 4) { pos := 0, cw := 0, cc := 15, slot := 0 } ∧ 14 < 15 ∧ Room s (latch 0 4) 2 :=
  ⟨⟨by decide, by decide, by decide, by decide, by decide⟩, ⟨by decide, by decide, by decide, by decide, by decide⟩,
    by decide, by decide, by decide⟩

/-- V1 and V2's rows `empty`, `41` and `41 41 41 41`. -/
theorem test_lzss_encoded :
    lzssEncoded [] = [0x02, 0, 0, 0, 0] ++ List.replicate 11 0 ∧
    lzssEncoded [0x41] = [0x05, 0, 0x41, 0, 0, 0] ++ List.replicate 10 0 ∧
    lzssEncoded [0x41, 0x41, 0x41, 0x41] = [0x51, 0, 0x41, 0xFF, 0, 0, 0] ++ List.replicate 9 0 ∧
    lzssEncoded [0x41, 0x42, 0x41, 0x42, 0x41, 0x42, 0x41, 0x42] =
      [0x2B, 0, 0x41, 0x42, 0xFE, 0xFC, 0, 0, 0] ++ List.replicate 7 0 := by decide

/-- One input byte, with exactly the room its encoding needs and with one byte less. -/
theorem wit_LzssEncWholeRun :
    ReadyToStart (ready [0x41] 16 0 0) ∧ (ready [0x41] 16 0 0).host = [] ∧
    (lzssEncoded (regionBytes (ready [0x41] 16 0 0) (latchOf (ready [0x41] 16 0 0)))).length ≤
      (ready [0x41] 16 0 0).dstCap.toNat ∧
    ReadyToStart (ready [0x41] 15 0 0) ∧
    (ready [0x41] 15 0 0).dstCap.toNat <
      (lzssEncoded (regionBytes (ready [0x41] 15 0 0) (latchOf (ready [0x41] 15 0 0)))).length :=
  ⟨ready_ok _ _ _ _ (by decide) (by decide) (by decide), rfl, by decide,
    ready_ok _ _ _ _ (by decide) (by decide) (by decide), by decide⟩

/-- The empty input: V2's first row, encoded and decoded. -/
def emptyCoded : State :=
  { State.reset with
    inMem := cells [0x02, 0, 0, 0, 0, 0, 0, 0, 0, 0, 0, 0, 0, 0, 0, 0], srcLen := 16, dstCap := 0, arg0 := 9 }

def nextOf (o : Out) (d : State) : State := (shows o id).getD d

theorem wit_LzssRoundTrip :
    let s := ready [] 16 9 0
    let s1 := nextOf (exec .lzssEnc s) s
    let t := nextOf (step s1) s1
    ReadyToStart s ∧ s.host = [] ∧ exec .lzssEnc s = .next s1 ∧ Host.Core.run core 1 s1 = .next t ∧ t.engine = .idle ∧
      t.status = 0b00010 ∧ ReadyToStart emptyCoded ∧ emptyCoded.host = [] ∧ emptyCoded.arg0 = s.arg0 ∧
      emptyCoded.srcLen = t.dstLen ∧
      (∀ a < t.dstLen.toNat, Mem.read emptyCoded.inMem (emptyCoded.srcOff.toNat + a) = Mem.read t.outMem a) ∧
      s.srcLen.toNat ≤ emptyCoded.dstCap.toNat ∧
      exec .lzssDec emptyCoded = .next (nextOf (exec .lzssDec emptyCoded) s) := by
  refine ⟨ready_ok _ _ _ _ (by decide) (by decide) (by decide), rfl, by rfl, by rfl, by decide, by decide,
    ⟨rfl, floor_le_inCap (by decide), floor_le_outCap (by decide), by decide⟩, rfl, by decide, by decide, by decide,
    by decide, by rfl⟩

/-! ### LZW -/

/-- After a first code 65: prev is 65; with the dictionary of 9-bit codes full. -/
theorem wit_LzwByteAndEntryResults :
    let w : LzwDecWork := { p := 18, w := 9, maxW := 9, dict := [[0x42, 0x43]], prev := some 65 }
    let s := midway [] 2 (.lzwDec w)
    let full : LzwDecWork := { w with dict := List.replicate 255 [0x42, 0x43] }
    s.engine = .run (latch 0 2) (.lzwDec w) ∧ (0x42 : Byte).toNat = 66 ∧ (257 ≤ 257 ∧ w.dict[257 - 257]? = some [0x42, 0x43]) ∧
      Room s (latch 0 2) ([0x43].length + 1) ∧ { w with prev := none }.prev = none ∧
      lzwString w.dict 65 = some [0x41] ∧ 257 + w.dict.length < 2 ^ w.maxW ∧
      2 ^ full.maxW ≤ 257 + full.dict.length ∧ full.dict[511 - 257]? = some [0x42, 0x43] := by
  refine ⟨rfl, by decide, by decide, ⟨by decide, by decide⟩, rfl, by decide, by decide, by decide +kernel, by decide +kernel⟩

theorem wit_LzwKwkAndClrResults :
    let s := midway [] 2 (.lzwDec v16Work)
    s.engine = .run (latch 0 2) (.lzwDec v16Work) ∧ v16Work.prev = some 65 ∧
      lzwString v16Work.dict 65 = some (0x41 :: []) ∧ 257 + v16Work.dict.length < 2 ^ v16Work.maxW ∧
      Room s (latch 0 2) (0 + 2) :=
  ⟨rfl, rfl, by decide, by decide, by decide, by decide⟩

/-- V16: one byte holds no code; code 258 first, and 257 first, name nothing. -/
theorem wit_LzwEndAndBadCode :
    let w : LzwDecWork := { p := 0, w := 9, maxW := 12, dict := [], prev := none }
    let s (bs : List Byte) := midway bs 64 (.lzwDec w)
    (s []).host = [] ∧ (s [0x41]).engine = .run (latch 1 64) (.lzwDec w) ∧ lzwDecWidth w = 9 ∧ 8 * 1 < w.p + 9 ∧
      w.p + 9 ≤ 8 * 2 ∧ 257 + w.dict.length < bitsToNat (inBitList (s [0x02, 0x01]) (latch 2 64) w.p 9) ∧
      bitsToNat (inBitList (s [0x01, 0x01]) (latch 2 64) w.p 9) = 257 + w.dict.length := by
  refine ⟨rfl, rfl, by decide, by decide, by decide, by decide, by decide⟩

/-- No prefix yet; (P, c) assigned; not assigned, the dictionary not full, and full at `max_code_width` 9. -/
theorem wit_LzwEncWholeRun_bytes :
    let w : LzwEncWork := { i := 2, w := 9, maxW := 9, dict := [(0x41, 0x41)], pre := some 0x41, acc := [] }
    { w with pre := none }.pre = none ∧ w.pre = some 0x41 ∧ w.dict[0]? = some (0x41, 0x41) ∧
      (∀ k < 0, w.dict[k]? ≠ some (0x41, 0x41)) ∧ (0x41, 0x42) ∉ w.dict ∧ 257 + w.dict.length < 2 ^ w.maxW ∧
      (0x41, 0x42) ∉ List.replicate 255 (0x41, (0x41 : Byte)) ∧
      2 ^ w.maxW ≤ 257 + (List.replicate 255 (0x41, (0x41 : Byte))).length := by decide +kernel

/-- R172's example with exactly the room it needs. -/
theorem wit_LzwEncWholeRun :
    let w : LzwEncWork := { i := 0, w := 9, maxW := 12, dict := [], pre := none, acc := [] }
    let s := midway [0x41, 0x41, 0x41, 0x41] 4 (.lzwEnc w)
    s.host = [] ∧ s.engine = .run (latch 4 4) (.lzwEnc w) ∧ w.i = 0 ∧
      Room s (latch 4 4) (lzwEncodeFrom w (regionBytes s (latch 4 4))).length := by
  refine ⟨rfl, rfl, rfl, by decide, by decide⟩

theorem wit_LzwRoundTrip :
    let s := ready [] 0 9 0
    let s1 := nextOf (exec .lzwEnc s) s
    let t := nextOf (step s1) s1
    ReadyToStart s ∧ s.host = [] ∧ exec .lzwEnc s = .next s1 ∧ Host.Core.run core 1 s1 = .next t ∧ t.engine = .idle ∧
      t.status = 0b00010 ∧ s.srcLen = t.dstLen ∧ (∀ a < t.dstLen.toNat, Mem.read s.inMem a = Mem.read t.outMem a) ∧
      exec .lzwDec s = .next (nextOf (exec .lzwDec s) s) := by
  refine ⟨ready_ok _ _ _ _ (by decide) (by decide) (by decide), rfl, by rfl, by rfl, by decide, by decide,
    by decide, by decide, by rfl⟩

/-! ### Wavelet -/

/-- V30's plane, a plane that overflows, and the outermost cells of a block. -/
theorem wit_WaveletPassIsExact :
    let c := [int 5, int 3, int 2, int 1]
    let o := [int 2147483647, int 1, int 0, int 0]
    c.length = 2 * 2 ∧ 1 ≤ 1 ∧ 2 * 1 ≤ 2 ∧ wavHorizontalPass c 2 1 = some [int 8, int 2, int 3, int 1] ∧
      o.length = 2 * 2 ∧ wavHorizontalPass o 2 1 = none := by decide

theorem wit_WaveletWholeRun :
    let c := [int 5, int 3, int 2, int 1]
    let w : WaveletWork := { size := 2, t := 1, coef := c, y := none }
    let s := midway (c.flatMap leBytes) 16 (.wavelet w)
    s.host = [] ∧ s.engine = .run (latch 16 16) (.wavelet w) ∧ 1 ≤ 1 ∧ 2 = 1 * 2 ^ 1 ∧
      wavePasses 2 1 1 c = some [int 5, int 1, int 2, int 0] ∧
      wavePasses 2 1 1 [int 2147483647, int 1, int 0, int 0] = none := by
  refine ⟨rfl, rfl, by decide, by decide, by decide, by decide⟩

/-! ### VLC -/

/-- A VLC_BUILD before its first pair: one pair (0, 1), one pair (0, 3) with a child that does not exist, and the
same good pair with SIT never written. -/
def buildMid (bs : List Byte) (sit : Mem Word) : State :=
  { midway bs 0 (.vlcBuild { p := 13, cnt := 1, s := 2 }) with sit := sit }

theorem wit_VlcBuildWholeRun :
    let good := buildMid [0x01, 0x00, 0x00, 0x04, 0x00] onePairSit
    let bad := buildMid [0x01, 0x00, 0x00, 0x0C, 0x00] onePairSit
    good.host = [] ∧ good.engine = .run (latch 5 0) (.vlcBuild { p := 13, cnt := 1, s := 2 }) ∧ good.tab1 = [] ∧
      dictPairs good (latch 5 0) 1 = onePair ∧ (∀ pr ∈ onePair, pr.left < 2 + 1 ∧ pr.right < 2 + 1) ∧
      vlcDeriveTab2 onePair 2 onePairSit = some onePairTab2 ∧
      (∃ pr ∈ dictPairs bad (latch 5 0) 1, 2 + 1 ≤ pr.left ∨ 2 + 1 ≤ pr.right) ∧
      vlcDeriveTab2 onePair 2 [] = none := by
  refine ⟨rfl, rfl, rfl, by decide, by decide, onePair_derives, by decide, by decide⟩

/-- A code of one bit, and the zero-length code. -/
theorem wit_VlcTermResult :
    let e : Tab2Entry := { kind := .terminal, val := 0x66, len := 1 }
    let s (e : Tab2Entry) : State := { v40Decode [e] 0 with engine := .run (latch 2 4) (.vlcDecode { p := 0, words := 0 }) }
    (s e).engine = .run (latch 2 4) (.vlcDecode { p := 0, words := 0 }) ∧
      (s e).tab2[bitsToNat (List.take 8 [false])]? = some { kind := .terminal, val := 0x66, len := [false].length } ∧
      [false] ≠ [] ∧ Room (s e) (latch 2 4) 4 ∧
      (s { e with len := 0 }).tab2[bitsToNat (List.take 8 [])]? =
        some { kind := .terminal, val := 0x66, len := ([] : List Bool).length } := by
  refine ⟨rfl, by decide, by decide, ⟨by decide, by decide⟩, by decide⟩

/-- The longest run, uncut and cut to one word. -/
theorem wit_VlcZrunResult :
    let s : State := { v40Decode (List.replicate 256 { kind := .zerorun, val := 0, len := 0 }) 0 with
      engine := .run (latch 2 4092) (.vlcDecode { p := 0, words := 0 }) }
    s.engine = .run (latch 2 4092) (.vlcDecode { p := 0, words := 0 }) ∧ 1023 < 1024 ∧
      s.tab2[bitsToNat (([] ++ natToBits 1023 10).take 8)]? =
        some { kind := .zerorun, val := 0, len := ([] : List Bool).length } ∧
      Room s (latch 2 4092) (4 * 1023) ∧ (1 ≠ 0 ∧ 1 < 0 + 1023) := by
  refine ⟨rfl, by decide, by decide +kernel, ⟨by decide, by decide⟩, by decide⟩

/-- V45's DEEP 9, and the same with SIT never written. -/
theorem wit_VlcDeepResult :
    let path := List.replicate 8 true ++ [false]
    v45Decode.engine = .run (latch 5 64) (.vlcDecode { p := 3, words := 2 }) ∧ 8 ≤ path.length ∧
      v45Decode.tab2[bitsToNat (path.take 8)]? = some { kind := .deferred, val := 1, len := 8 } ∧
      vlcDescend (tablesOf v45Decode) (.inner (1 : Word).toNat) (path.drop 8) = some (.leaf 9, path.length - 8) ∧
      Mem.read v45Decode.sit 9 = some 0xA9 ∧ Room v45Decode (latch 5 64) 4 ∧
      Mem.read ({ v45Decode with sit := [] } : State).sit 9 = none := by
  refine ⟨rfl, by decide, by decide, by decide, by decide, ⟨by decide, by decide⟩, rfl⟩

/-! ### Frames and the host -/

theorem wit_TokenFrame :
    isCommand (.rleByte 0x41) = false ∧ (rleMid 0).engine = .run (latch 6 64) (.rleDec { ip := 0, last := some 0x41 }) ∧
      64 < 2 ^ 32 ∧ (rleMid 0).dstLen.toNat ≤ 64 ∧ (shows (exec (.rleByte 0x41) (rleMid 0)) id).isSome = true ∧
      (v1Work 4 0x0A 14 2).wp ≤ 0x4000 ∧ (shows (exec (.lzssSeg 0) lzssMid) id).isSome = true := by decide

theorem wit_WindowFrame :
    lzssMid.engine = .run (latch 9 64) (.lzssDec (v1Work 4 0x0A 14 2)) ∧ (v1Work 4 0x0A 14 2).wp + 6 ≤ 0x4000 ∧
      (shows (exec (.lzssLref 6 2) lzssMid) id).isSome = true ∧
      (shows (exec (.lzssLit 0x41) lzssMid) id).isSome = true := by decide

/-- A start that is ignored, one that faults, one that runs. -/
theorem wit_CommandFrame :
    isCommand .vlcBuild = true ∧ busy (rleMid 0) = true ∧ (shows (exec .vlcBuild (rleMid 0)) id).isSome = true ∧
      busy (ready [] 0 0 0) = false ∧ (shows (exec .vlcBuild (ready [] 0 0 0)) id).isSome = true ∧
      (shows (exec .lzssEnc (ready [] 2 0 0)) id).isSome = true := by decide

/-- With no access pending, and with one that is two steps away. -/
theorem wit_EngineKeepsHostMemories :
    (rleMid 0).host = [] ∧ (shows (step (rleMid 0)) id).isSome = true ∧
    (let s : State := { rleMid 0 with host := [{ delay := 2, op := .readReg 1 }] }
     s.host = { delay := 2, op := .readReg 1 } :: [] ∧ running s = true ∧ 2 ≠ 0 ∧
       (shows (step s) id).isSome = true) := by decide

theorem wit_HostRegisterAccesses :
    busy State.reset = false ∧ (∀ r : Nat, ∀ v : Reg, (asking State.reset (.writeReg r v)).host =
      { delay := 0, op := .writeReg r v } :: []) ∧
    (∀ r : Nat, (asking State.reset (.readReg r)).host = { delay := 0, op := .readReg r } :: []) ∧
    State.reset.doneSeen = true := ⟨rfl, fun _ _ => rfl, fun _ => rfl, rfl⟩

theorem wit_HostMemoryWrites :
    busy State.reset = false ∧ State.reset.doneSeen = true ∧ 0x3FFFF < Config.inCap ∧ 8191 < 8192 :=
  ⟨rfl, rfl, floor_le_inCap (x := 0x40000) (by decide), by decide⟩

/-- The last address of each aperture, written and not; a byte below DST_LEN, and the first one above. -/
theorem wit_HostMemoryReads :
    let s : State := { State.reset with
      inMem := [(0x3FFFF, 1)], sit := [(8191, 2)], outMem := [(0, 3)], dstLen := 1 }
    (0x3FFFF < Config.inCap ∧ 1 = (Mem.read s.inMem 0x3FFFF).getD (Config.unspecIn s.resets 0x3FFFF) ∧
        Config.unspecIn s.resets 0 = (Mem.read s.inMem 0).getD (Config.unspecIn s.resets 0) ∧
        Config.inCap ≤ Config.inCap) ∧
      (8191 < 8192 ∧ 2 = (Mem.read s.sit 8191).getD (Config.unspecSit s.resets 8191)) ∧
      (0 < Config.outCap ∧ s.doneSeen = true ∧ errBit s = false ∧ 0 < s.dstLen.toNat ∧ Mem.read s.outMem 0 = some 3 ∧
        s.dstLen.toNat ≤ 1 ∧ { s with doneSeen := false }.doneSeen = false) :=
  ⟨⟨floor_le_inCap (x := 0x40000) (by decide), rfl, rfl, Nat.le_refl _⟩, ⟨by decide, rfl⟩,
    floor_le_outCap (x := 1) (by decide), rfl, by decide, by decide, by decide, by decide, rfl⟩

/-! ### Invariants -/

theorem rleMid_ctl : CtlOk (rleMid 0) :=
  ⟨⟨rfl, rfl, by decide, floor_le_inCap (by decide), floor_le_outCap (by decide), by decide, by decide⟩, by decide⟩

theorem rleMid_tab : TabOk (rleMid 0) where
  valid := fun h => absurd h (by decide)
  invalid := by decide
  busy := by decide
  building := fun l w h => by simp [rleMid, midway] at h
  decoding := fun l w h => by simp [rleMid, midway] at h

theorem rleMid_lzw : LzwInv (rleMid 0) :=
  ⟨fun l w h => by simp [rleMid, midway] at h, fun l w h => by simp [rleMid, midway] at h⟩

theorem wit_StepKeepsMemoryCanonical : MemOk (rleMid 0) ∧ (shows (step (rleMid 0)) id).isSome = true := by
  refine ⟨⟨?_, ?_, ?_, ?_⟩, ?_⟩ <;> decide

theorem wit_StepKeepsControl : CtlOk (rleMid 0) ∧ (shows (step (rleMid 0)) id).isSome = true :=
  ⟨rleMid_ctl, by decide⟩

theorem vlcMid_tab : TabOk (vlcMid 0 0 0) where
  valid := fun _ => by
    have h : tabS (vlcMid 0 0 0) = 2 := by decide
    rw [tablesOf, h]
    exact ⟨onePair_built, by decide⟩
  invalid := by decide
  busy := by decide
  building := fun l w h => by simp [vlcMid] at h
  decoding := fun _ _ _ => by decide

theorem wit_StepKeepsTables : TabOk (vlcMid 0 0 0) ∧ (shows (step (vlcMid 0 0 0)) id).isSome = true :=
  ⟨vlcMid_tab, by decide +kernel⟩

theorem lzssMid_inv : LzssDecInv lzssMid := by
  refine ⟨by decide, fun l w h => ?_⟩
  obtain ⟨rfl, h⟩ : latch 9 64 = l ∧ Work.lzssDec (v1Work 4 0x0A 14 2) = .lzssDec w := by
    simpa [lzssMid, midway, v1Bytes] using h
  cases h
  exact lzssMid_ok

theorem wit_StepKeepsWindow : LzssDecInv lzssMid ∧ (shows (step lzssMid) id).isSome = true :=
  ⟨lzssMid_inv, by decide⟩

theorem lzwMid_inv : LzwInv (lzwMid 0 none) := by
  refine ⟨fun l w h => ?_, fun l w h => by simp [lzwMid, midway] at h⟩
  obtain ⟨rfl, rfl⟩ : latch 4 64 = l ∧ { p := 0, w := 9, maxW := 12, dict := [], prev := none } = w := by
    simpa [lzwMid, midway] using h
  exact ⟨by decide, by decide, by decide, by decide, by decide, fun _ => rfl, fun c h => by simp at h, by decide⟩

/-- An LZSS_ENC before the 16th bit of a control word. -/
def lzssEncMid : State :=
  { midway [0x41] 8 (.lzssEnc { pos := 0, cw := 0, cc := 15, slot := 0 }) with outMem := [(0, 0), (1, 0)], dstLen := 2 }

/-- An LZW_ENC whose next entry is code 512, which widens the code. -/
def lzwEncWork : LzwEncWork :=
  { i := 1, w := 9, maxW := 10, dict := List.replicate 255 (0x41, 0x41), pre := some 511, acc := [true] }
def lzwEncMid : State := midway [0x41, 0x42] 8 (.lzwEnc lzwEncWork)

/-- A WAVELET_INV of four cells between its passes. -/
def waveletWork : WaveletWork :=
  { size := 2, t := 1, coef := [int 5, int 3, int 2, int 1], y := some [int 8, int 2, int 3, int 1] }
def waveletMid : State := midway [] 16 (.wavelet waveletWork)

/-- An LZW_DEC, an LZSS_ENC, an LZW_ENC and a WAVELET_INV, each running. -/
theorem wit_StepKeepsWorkingState :
    (LzwInv (lzwMid 0 none) ∧ (shows (step (lzwMid 0 none)) id).isSome = true) ∧
    (LzssEncInv lzssEncMid ∧ running lzssEncMid = true ∧ (shows (step lzssEncMid) id).isSome = true) ∧
    (LzwInv lzwEncMid ∧ running lzwEncMid = true ∧ (shows (step lzwEncMid) id).isSome = true) ∧
    (WaveletInv waveletMid ∧ running waveletMid = true ∧ (shows (step waveletMid) id).isSome = true) := by
  refine ⟨⟨lzwMid_inv, by decide⟩, ⟨fun l w h => ?_, rfl, by decide⟩,
    ⟨⟨fun l w h => by simp [lzwEncMid, midway] at h, fun l w h => ?_⟩, rfl, by decide +kernel⟩,
    ⟨fun l w h => ?_, rfl, by decide⟩⟩
  · obtain ⟨rfl, rfl⟩ : latch 1 8 = l ∧ { pos := 0, cw := 0, cc := 15, slot := 0 } = w := by
      simpa [lzssEncMid, midway] using h
    exact ⟨by decide, by decide, by decide, by decide, by decide⟩
  · obtain ⟨rfl, rfl⟩ : latch 2 8 = l ∧ lzwEncWork = w := by
      injection h with h1 h2
      injection h2 with h2
      exact ⟨h1, h2⟩
    exact ⟨by decide, by decide, by decide, by decide +kernel,
      fun c hc => by
        obtain rfl : 511 = c := by injection hc
        decide +kernel, by decide, by decide⟩
  · obtain ⟨rfl, rfl⟩ : latch 0 16 = l ∧ waveletWork = w := by simpa [waveletMid, midway] using h
    exact ⟨by decide, ⟨1, rfl⟩, by decide, by decide, by decide,
      fun y hy => by
        obtain rfl : [int 8, int 2, int 3, int 1] = y := by simpa [waveletWork] using hy
        decide⟩

theorem wit_NoUnexpectedStop : CtlOk (rleMid 0) ∧ TabOk (rleMid 0) ∧ LzwInv (rleMid 0) :=
  ⟨rleMid_ctl, rleMid_tab, rleMid_lzw⟩

theorem lzwMid_tab : TabOk (lzwMid 0 none) where
  valid := fun h => absurd h (by decide)
  invalid := by decide
  busy := by decide
  building := fun l w h => by simp [lzwMid, midway] at h
  decoding := fun l w h => by simp [lzwMid, midway] at h

theorem wit_EveryCommandEnds : (lzwMid 0 none).host = [] ∧
    (lzwMid 0 none).engine = .run (latch 4 64) (.lzwDec { p := 0, w := 9, maxW := 12, dict := [], prev := none }) ∧
    TabOk (lzwMid 0 none) ∧ LzwInv (lzwMid 0 none) ∧ WaveletInv (lzwMid 0 none) :=
  ⟨rfl, rfl, lzwMid_tab, lzwMid_inv, fun l w h => by simp [lzwMid, midway] at h⟩

/-- Two windows that differ above `wp` alone. -/
theorem wit_StaleWindowIsUnobservable :
    LzssDecInv lzssMid ∧ SameButStaleWin lzssMid (lzssMid.setWin [(0, 0x41), (1, 0x42), (2, 0x99)]) ∧
      (shows (step lzssMid) id).isSome = true := by
  refine ⟨lzssMid_inv, ⟨rfl, fun l w h => ?_⟩, by decide⟩
  obtain ⟨rfl, h⟩ : latch 9 64 = l ∧ Work.lzssDec (v1Work 4 0x0A 14 2) = .lzssDec w := by
    simpa [lzssMid, midway, v1Bytes] using h
  cases h
  decide

end Sys2Proof.Tests
end

/-! PROOFS. The family of `10_state.md`: what a step can do, said once for the engine's turns (`EngineMove`), the
commands' starts (`CommandMove`) and the host's accesses (`HostMove`), and the invariants and frames that follow. -/

/-! # What output and the end of a turn do -/

namespace Sys2Proof.Machine

/-! ## Output, with nothing assumed of DST_LEN -/

/-- Where DST_LEN was within the capacity, it still is after the bytes `bs`. -/
def Fits (cap : Nat) (s : State) (bs : List Byte) : Prop :=
  s.dstLen.toNat ≤ cap → cap < 2 ^ 32 → s.dstLen.toNat + bs.length ≤ cap

theorem fits_nil (cap : Nat) (s : State) : Fits cap s [] := fun h _ => h

theorem fits_cons {cap : Nat} {s : State} {b : Byte} {bs : List Byte} (hfull : s.dstLen.toNat ≠ cap)
    (h : Fits cap (s.putOut b) bs) : Fits cap s (b :: bs) := by
  intro hle hcap
  have hlen := putOut_dstLen_toNat (s := s) (by omega) b
  have hbs := h (by omega) hcap
  rw [List.length_cons]
  omega

/-- `emitAll` from any state: all the bytes are stored, or those that fit and the command ends in OutputOverflow. -/
theorem emitAll_result (cap ip : Nat) (bs : List Byte) (s : State) :
    (Fits cap s bs ∧ emitAll cap ip bs s = .ok (s.putAll bs)) ∨
      ∃ cs, cs.length ≤ bs.length ∧ Fits cap s cs ∧
        emitAll cap ip bs s = .error (raise .outputOverflow ip (s.putAll cs)) := by
  induction bs generalizing s with
  | nil => exact .inl ⟨fits_nil cap s, rfl⟩
  | cons b bs ih =>
    rw [emitAll]
    by_cases hfull : s.dstLen.toNat = cap
    · rw [emit_full hfull]
      exact .inr ⟨[], Nat.zero_le _, fits_nil cap s, rfl⟩
    · rw [emit_room hfull]
      rcases ih (s.putOut b) with ⟨hfits, heq⟩ | ⟨cs, hlen, hfits, heq⟩
      · exact .inl ⟨fits_cons hfull hfits, heq⟩
      · exact .inr ⟨b :: cs, Nat.succ_le_succ hlen, fits_cons hfull hfits, heq⟩

/-- What a next state after output is: the continuation's, or the overflow's. -/
theorem afterEmit_next {cap ip : Nat} {bs : List Byte} {s t : State} {k : State → Out}
    (h : afterEmit (emitAll cap ip bs s) k = .next t) :
    (Fits cap s bs ∧ k (s.putAll bs) = .next t) ∨
      ∃ cs, Fits cap s cs ∧ t = raise .outputOverflow ip (s.putAll cs) := by
  rcases emitAll_result cap ip bs s with ⟨hfits, heq⟩ | ⟨cs, _, hfits, heq⟩
  · rw [heq] at h
    exact .inl ⟨hfits, h⟩
  · rw [heq] at h
    exact .inr ⟨cs, hfits, (Host.Outcome.next.inj h).symm⟩

/-! ### `putAll`, field by field -/

@[simp] theorem putAll_cmd (s : State) (bs : List Byte) : (s.putAll bs).cmd = s.cmd := by rw [putAll_frame]
@[simp] theorem putAll_status (s : State) (bs : List Byte) : (s.putAll bs).status = s.status := by rw [putAll_frame]
@[simp] theorem putAll_errcode (s : State) (bs : List Byte) : (s.putAll bs).errcode = s.errcode := by rw [putAll_frame]
@[simp] theorem putAll_errpos (s : State) (bs : List Byte) : (s.putAll bs).errpos = s.errpos := by rw [putAll_frame]
@[simp] theorem putAll_srcOff (s : State) (bs : List Byte) : (s.putAll bs).srcOff = s.srcOff := by rw [putAll_frame]
@[simp] theorem putAll_srcLen (s : State) (bs : List Byte) : (s.putAll bs).srcLen = s.srcLen := by rw [putAll_frame]
@[simp] theorem putAll_dstCap (s : State) (bs : List Byte) : (s.putAll bs).dstCap = s.dstCap := by rw [putAll_frame]
@[simp] theorem putAll_srcUsed (s : State) (bs : List Byte) : (s.putAll bs).srcUsed = s.srcUsed := by rw [putAll_frame]
@[simp] theorem putAll_arg0 (s : State) (bs : List Byte) : (s.putAll bs).arg0 = s.arg0 := by rw [putAll_frame]
@[simp] theorem putAll_arg1 (s : State) (bs : List Byte) : (s.putAll bs).arg1 = s.arg1 := by rw [putAll_frame]
@[simp] theorem putAll_tabInfo (s : State) (bs : List Byte) : (s.putAll bs).tabInfo = s.tabInfo := by rw [putAll_frame]
@[simp] theorem putAll_inMem (s : State) (bs : List Byte) : (s.putAll bs).inMem = s.inMem := by rw [putAll_frame]
@[simp] theorem putAll_sit (s : State) (bs : List Byte) : (s.putAll bs).sit = s.sit := by rw [putAll_frame]
@[simp] theorem putAll_win (s : State) (bs : List Byte) : (s.putAll bs).win = s.win := by rw [putAll_frame]
@[simp] theorem putAll_tab1 (s : State) (bs : List Byte) : (s.putAll bs).tab1 = s.tab1 := by rw [putAll_frame]
@[simp] theorem putAll_tab2 (s : State) (bs : List Byte) : (s.putAll bs).tab2 = s.tab2 := by rw [putAll_frame]
@[simp] theorem putAll_engine (s : State) (bs : List Byte) : (s.putAll bs).engine = s.engine := by rw [putAll_frame]
@[simp] theorem putAll_doneSeen (s : State) (bs : List Byte) : (s.putAll bs).doneSeen = s.doneSeen := by
  rw [putAll_frame]
@[simp] theorem putAll_host (s : State) (bs : List Byte) : (s.putAll bs).host = s.host := by rw [putAll_frame]
@[simp] theorem putAll_reads (s : State) (bs : List Byte) : (s.putAll bs).reads = s.reads := by rw [putAll_frame]
@[simp] theorem putAll_resets (s : State) (bs : List Byte) : (s.putAll bs).resets = s.resets := by rw [putAll_frame]
@[simp] theorem putAll_starts (s : State) (bs : List Byte) : (s.putAll bs).starts = s.starts := by rw [putAll_frame]

/-! ## What is left of a state when the parts an operation may change are struck out

Two states that agree after striking out agree in every other field: `congrArg` reads a field off. -/

/-- Without OUT and DST_LEN, which output changes (R105). -/
def State.sansOutput (s : State) : State := { s with outMem := [], dstLen := 0 }

/-- Without what the engine works on: OUT, WIN, the tables and the working state. -/
def State.sansData (s : State) : State :=
  { s.sansOutput with win := [], tab1 := [], tab2 := [], tabInfo := 0, engine := .idle }

/-- Without what the end of a turn writes: the working state, or the results of a command (R104, R280). -/
def State.sansEnd (s : State) : State :=
  { s with engine := .idle, status := 0, errcode := 0, errpos := 0, srcUsed := 0 }

@[simp] theorem putAll_sansOutput (s : State) (bs : List Byte) : (s.putAll bs).sansOutput = s.sansOutput := by
  rw [putAll_frame]
  rfl

@[simp] theorem putAll_sansData (s : State) (bs : List Byte) : (s.putAll bs).sansData = s.sansData :=
  (congrArg State.sansData (putAll_sansOutput s bs) :)

@[simp] theorem setRun_sansData (s : State) (l : Latch) (w : Work) : (s.setRun l w).sansData = s.sansData := rfl
@[simp] theorem setWin_sansData (s : State) (m : Memory) : (s.setWin m).sansData = s.sansData := rfl

/-- What a series of writes to OUT under a capacity is: the output of some bytes, with control words filled in between
(R105, R146). -/
structure OutputMove (cap : Nat) (s u : State) : Prop where
  frame : u.sansOutput = s.sansOutput
  wf : Mem.wf s.outMem → Mem.wf u.outMem
  len : s.dstLen.toNat ≤ cap → cap < 2 ^ 32 → s.dstLen.toNat ≤ u.dstLen.toNat ∧ u.dstLen.toNat ≤ cap

theorem OutputMove.refl (cap : Nat) (s : State) : OutputMove cap s s :=
  ⟨rfl, id, fun h _ => ⟨Nat.le_refl _, h⟩⟩

theorem OutputMove.trans {cap : Nat} {s u v : State} (h : OutputMove cap s u) (h' : OutputMove cap u v) :
    OutputMove cap s v where
  frame := h'.frame.trans h.frame
  wf := h'.wf ∘ h.wf
  len hle hcap := by
    have hu := h.len hle hcap
    have hv := h'.len hu.2 hcap
    omega

theorem Fits.outputMove {cap : Nat} {s : State} {bs : List Byte} (h : Fits cap s bs) :
    OutputMove cap s (s.putAll bs) where
  frame := putAll_sansOutput s bs
  wf hwf := putAll_outMem_wf hwf bs
  len hle hcap := by
    have hfit := h hle hcap
    have hlen := putAll_dstLen (s := s) bs (by omega)
    omega

theorem fillSlot_outputMove (cap : Nat) (w : LzssEncWork) (s : State) : OutputMove cap s (lzssFillSlot w s) :=
  ⟨rfl, fun h => fillSlot_outMem_wf h w, fun h _ => ⟨Nat.le_refl _, h⟩⟩

theorem OutputMove.sansData {cap : Nat} {s u : State} (h : OutputMove cap s u) : u.sansData = s.sansData :=
  (congrArg State.sansData h.frame :)

theorem OutputMove.win {cap : Nat} {s u : State} (h : OutputMove cap s u) : u.win = s.win :=
  (congrArg State.win h.frame :)

theorem OutputMove.memOk {cap : Nat} {s u : State} (h : OutputMove cap s u) (hs : MemOk s) : MemOk u := by
  obtain ⟨hin, hout, hsit, hwin⟩ := hs
  exact ⟨congrArg State.inMem h.frame ▸ hin, h.wf hout, congrArg State.sit h.frame ▸ hsit, h.win ▸ hwin⟩

/-! ## How a turn ends -/

/-- How the engine leaves a state `u` at the end of a turn: it goes on with a working state that meets `R`, or the
command ends, by a fault of R270 or normally (R104, R280). -/
inductive Ended (l : Latch) (R : Work → Prop) (u : State) : State → Prop
  | runs (w : Work) (h : R w) : Ended l R u (u.setRun l w)
  | raises (f : BlockFault) (pos : Nat) (h : f.code ∈ raisedCodes) : Ended l R u (raise f pos u)
  | finishes (flags : Reg) (used : Nat) (h : flags ∈ [0, statusSoftEnd, statusLimit]) :
      Ended l R u (finish flags used u)

theorem Ended.mono {l : Latch} {R R' : Work → Prop} {u t : State} (h : Ended l R u t) (hR : ∀ w, R w → R' w) :
    Ended l R' u t := by
  cases h with
  | runs w h => exact .runs w (hR w h)
  | raises f pos h => exact .raises f pos h
  | finishes flags used h => exact .finishes flags used h

theorem Ended.sansEnd {l : Latch} {R : Work → Prop} {u t : State} (h : Ended l R u t) : t.sansEnd = u.sansEnd := by
  cases h <;> rfl

theorem Ended.memOk {l : Latch} {R : Work → Prop} {u t : State} (h : Ended l R u t) (hu : MemOk u) : MemOk t := by
  cases h <;> exact hu

/-- A turn that does not end the command leaves the results alone. -/
theorem Ended.of_running {l : Latch} {R : Work → Prop} {u t : State} (h : Ended l R u t) (hrun : running t = true) :
    ∃ w, R w ∧ t = u.setRun l w := by
  cases h with
  | runs w h => exact ⟨w, h, rfl⟩
  | raises f pos h => simp at hrun
  | finishes flags used h => simp at hrun

theorem Ended.of_engine {l l' : Latch} {R : Work → Prop} {u t : State} {w : Work} (h : Ended l R u t)
    (he : t.engine = .run l' w) : l' = l ∧ R w ∧ t = u.setRun l w := by
  obtain ⟨w', hR, rfl⟩ := h.of_running (by simp [running, he])
  cases he
  exact ⟨rfl, hR, rfl⟩

/-- Output, then an end. -/
theorem afterEmit_ended {l : Latch} {R : Work → Prop} {ip : Nat} {bs : List Byte} {s t : State} {k : State → Out}
    (h : afterEmit (emitAll l.cap ip bs s) k = .next t) (hk : ∀ u, k u = .next t → Ended l R u t) :
    ∃ cs, Fits l.cap s cs ∧ Ended l R (s.putAll cs) t := by
  rcases afterEmit_next h with ⟨hfits, hnext⟩ | ⟨cs, hfits, rfl⟩
  · exact ⟨bs, hfits, hk _ hnext⟩
  · exact ⟨cs, hfits, .raises _ _ (by decide)⟩

/-- Output, then the command's normal end. -/
theorem afterEmit_finish {l : Latch} {flags : Reg} (hflags : flags ∈ [0, statusSoftEnd, statusLimit])
    (R : Work → Prop) {ip used : Nat} {bs : List Byte} {s t : State}
    (h : afterEmit (emitAll l.cap ip bs s) (fun u => .next (finish flags used u)) = .next t) :
    ∃ cs, Fits l.cap s cs ∧ Ended l R (s.putAll cs) t :=
  afterEmit_ended h fun _ hu => Host.Outcome.next.inj hu ▸ .finishes flags used hflags

/-- Output, then the command goes on with `w`. -/
theorem afterEmit_setRun {l : Latch} {ip : Nat} {bs : List Byte} {s t : State} {w : Work}
    (h : afterEmit (emitAll l.cap ip bs s) (fun u => .next (u.setRun l w)) = .next t) :
    ∃ cs, Fits l.cap s cs ∧ Ended l (· = w) (s.putAll cs) t :=
  afterEmit_ended h fun _ hu => Host.Outcome.next.inj hu ▸ .runs w rfl

end Sys2Proof.Machine

/-! # Tokens -/

namespace Sys2Proof.Machine

/-- The command whose working state it is. -/
def Work.command : Work → Instr
  | .lzssDec _ => .lzssDec
  | .lzssEnc _ => .lzssEnc
  | .lzwDec _ => .lzwDec
  | .lzwEnc _ => .lzwEnc
  | .rleDec _ => .rleDec
  | .rleEnc _ => .rleEnc
  | .wavelet _ => .waveletInv
  | .vlcBuild _ => .vlcBuild
  | .vlcDecode _ => .vlcDecode

/-- The tokens that write the window before its slide (R126 to R129). -/
def writesWin : Instr → Bool
  | .lzssLit _ => true
  | .lzssSref _ _ => true
  | .lzssLref _ _ => true
  | .lzssXref _ _ => true
  | _ => false

@[simp] theorem setWin_setWin (s : State) (m m' : Memory) : (s.setWin m).setWin m' = s.setWin m' := rfl

theorem setWin_self {s : State} {m : Memory} (h : s.win = m) : s.setWin m = s := h ▸ rfl

@[simp] theorem putAll_setWin (s : State) (m : Memory) (bs : List Byte) :
    (s.setWin m).putAll bs = (s.putAll bs).setWin m := by
  induction bs generalizing s with
  | nil => rfl
  | cons b bs ih => exact ih (s.putOut b)

/-! ### A token runs in its decoder only (log 14) -/

theorem withRleDec_next {s t : State} {k : Latch → RleDecWork → Out} (h : withRleDec s k = .next t) :
    ∃ l w, s.engine = .run l (.rleDec w) ∧ k l w = .next t := by
  unfold withRleDec at h
  split at h
  · exact ⟨_, _, ‹_›, h⟩
  · cases h

theorem withLzssDec_next {s t : State} {k : Latch → LzssDecWork → Out} (h : withLzssDec s k = .next t) :
    ∃ l w, s.engine = .run l (.lzssDec w) ∧ k l w = .next t := by
  unfold withLzssDec at h
  split at h
  · exact ⟨_, _, ‹_›, h⟩
  · cases h

theorem withLzwDec_next {s t : State} {k : Latch → LzwDecWork → Out} (h : withLzwDec s k = .next t) :
    ∃ l w, s.engine = .run l (.lzwDec w) ∧ k l w = .next t := by
  unfold withLzwDec at h
  split at h
  · exact ⟨_, _, ‹_›, h⟩
  · cases h

theorem withVlcDecode_next {i : Instr} {s t : State} {k : Latch → VlcDecodeWork → Out}
    (h : withVlcDecode i s k = .next t) : ∃ l w, s.engine = .run l (.vlcDecode w) ∧ k l w = .next t := by
  unfold withVlcDecode at h
  split at h
  · split at h
    · exact ⟨_, _, ‹_›, h⟩
    · cases h
  · cases h

theorem withLzssDec_run {s : State} {l : Latch} {w : LzssDecWork} (h : s.engine = .run l (.lzssDec w))
    (k : Latch → LzssDecWork → Out) : withLzssDec s k = k l w := by
  rw [withLzssDec, h]

theorem withLzwDec_run {s : State} {l : Latch} {w : LzwDecWork} (h : s.engine = .run l (.lzwDec w))
    (k : Latch → LzwDecWork → Out) : withLzwDec s k = k l w := by
  rw [withLzwDec, h]

/-! ### The operations tokens share -/

theorem rleOut_next {bs : List Byte} {last : Byte} {l : Latch} {w : RleDecWork} {s t : State}
    (h : rleOut bs last l w s = .next t) :
    ∃ cs, Fits l.cap s cs ∧ Ended l (· = .rleDec { w with last := some last }) (s.putAll cs) t :=
  afterEmit_setRun h

theorem lzwOutput_next {e : List Byte} {c : Nat} {l : Latch} {w : LzwDecWork} {s t : State}
    (h : lzwOutput e c l w s = .next t) :
    ∃ cs, Fits l.cap s cs ∧
      Ended l (· = .lzwDec { w with dict := lzwLearn w e, prev := some c }) (s.putAll cs) t :=
  afterEmit_setRun h

theorem vlcWord_next {v : Word} {len : Nat} {l : Latch} {w : VlcDecodeWork} {s t : State}
    (h : vlcWord v len l w s = .next t) :
    ∃ cs, Fits l.cap s cs ∧ Ended l (· = .vlcDecode { p := w.p + len, words := w.words + 1 }) (s.putAll cs) t :=
  afterEmit_setRun h

theorem lzssSlide_next {l : Latch} {w : LzssDecWork} {s t : State} (h : lzssSlide l w s = .next t) :
    (w.wp ≤ Config.winFlush ∧ t = s.setRun l (.lzssDec w)) ∨
      (Config.winFlush < w.wp ∧ Fits l.cap s (winBytes s.win 0 Config.winSlide) ∧
        t = ((s.putAll (winBytes s.win 0 Config.winSlide)).setWin
            (winShift Config.winSlide (w.wp - Config.winSlide) 0 s.win)).setRun l
          (.lzssDec { w with wp := w.wp - Config.winSlide, total := w.total + Config.winSlide })) ∨
      ∃ cs, Fits l.cap s cs ∧ t = raise .outputOverflow w.ip (s.putAll cs) := by
  unfold lzssSlide at h
  split at h
  case isTrue hwp =>
    rcases afterEmit_next h with ⟨hfits, hnext⟩ | hfull
    · rw [putAll_win] at hnext
      exact .inr (.inl ⟨hwp, hfits, (Host.Outcome.next.inj hnext).symm⟩)
    · exact .inr (.inr hfull)
  case isFalse hwp => exact .inl ⟨Nat.le_of_not_lt hwp, (Host.Outcome.next.inj h).symm⟩

theorem lzssCopy_next {len dist : Nat} {l : Latch} {w : LzssDecWork} {s t : State}
    (h : lzssCopy len dist l w s = .next t) :
    t = raise .lzssBadDistance w.ip s ∨
      (dist ≤ w.total + w.wp ∧
        lzssSlide l { w with wp := w.wp + len } (s.setWin (winCopy dist len w.wp s.win)) = .next t) := by
  by_cases hd : w.total + w.wp < dist
  · rw [lzssCopy_bad hd] at h
    exact .inl (Host.Outcome.next.inj h).symm
  · rw [lzssCopy_ok (Nat.le_of_not_lt hd)] at h
    exact .inr ⟨Nat.le_of_not_lt hd, h⟩

theorem lzssEnd_next {flags : Reg} (hflags : flags ∈ [0, statusSoftEnd, statusLimit]) {l : Latch}
    {w : LzssDecWork} {s t : State} (R : Work → Prop) (h : lzssEnd flags l w s = .next t) :
    ∃ cs, Fits l.cap s cs ∧ Ended l R (s.putAll cs) t :=
  afterEmit_finish hflags R h

/-! ### What a token does -/

/-- What a token `i` run in state `s` by working state `w` does: it outputs `bs`, leaves the window as `m`, and the
command goes on or ends. -/
structure TokenMove (i : Instr) (s : State) (l : Latch) (w : Work) (bs : List Byte) (m : Memory) (t : State) :
    Prop where
  fits : Fits l.cap s bs
  wf : Mem.wf s.win → Mem.wf m
  other : w.command ≠ .lzssDec → m = s.win
  quiet : writesWin i = false → (∀ dw, w = .lzssDec dw → dw.wp ≤ Config.winFlush) → m = s.win
  ended : Ended l (fun w' => w'.command = w.command) ((s.putAll bs).setWin m) t

/-- A token that only outputs. -/
theorem TokenMove.of_output {i : Instr} {s t : State} {l : Latch} {w : Work} {bs : List Byte}
    (hfits : Fits l.cap s bs) (hended : Ended l (fun w' => w'.command = w.command) (s.putAll bs) t) :
    TokenMove i s l w bs s.win t where
  fits := hfits
  wf := id
  other _ := rfl
  quiet _ _ := rfl
  ended := by rwa [setWin_self (putAll_win s bs)]

/-- A token that faults before it outputs. -/
theorem TokenMove.of_raise {i : Instr} {s : State} {l : Latch} {w : Work} {f : BlockFault} (pos : Nat)
    (hf : f.code ∈ raisedCodes) : TokenMove i s l w [] s.win (raise f pos s) :=
  .of_output (fits_nil _ s) (.raises f pos hf)

/-- The slide at the end of a token that has left the window as `m`. -/
theorem lzssSlide_moves {i : Instr} {l : Latch} {w w0 : LzssDecWork} {s t : State} {m : Memory}
    (hwf : Mem.wf s.win → Mem.wf m) (hquiet : writesWin i = false → m = s.win ∧ w.wp = w0.wp)
    (h : lzssSlide l w (s.setWin m) = .next t) : ∃ bs m', TokenMove i s l (.lzssDec w0) bs m' t := by
  rcases lzssSlide_next h with ⟨_, rfl⟩ | ⟨hwp, hfits, rfl⟩ | ⟨cs, hfits, rfl⟩
  · exact ⟨[], m, fits_nil _ s, hwf, fun hne => absurd rfl hne, fun hq _ => (hquiet hq).1, .runs _ rfl⟩
  · refine ⟨_, winShift Config.winSlide (w.wp - Config.winSlide) 0 m, hfits, fun hs => winShift_wf (hwf hs) _ _ _,
      fun hne => absurd rfl hne, fun hq hle => ?_, ?_⟩
    · have hw0 := hle w0 rfl
      have hwp0 := (hquiet hq).2
      omega
    · rw [putAll_setWin, setWin_setWin]
      exact .runs _ rfl
  · refine ⟨cs, m, hfits, hwf, fun hne => absurd rfl hne, fun hq _ => (hquiet hq).1, ?_⟩
    rw [putAll_setWin]
    exact .raises _ _ (by decide)

theorem lzssCopy_moves {i : Instr} (hi : writesWin i = true) {len dist : Nat} {l : Latch} {w : LzssDecWork}
    {s t : State} (h : lzssCopy len dist l w s = .next t) : ∃ bs m, TokenMove i s l (.lzssDec w) bs m t := by
  rcases lzssCopy_next h with rfl | ⟨_, hslide⟩
  · exact ⟨_, _, .of_raise _ (by decide)⟩
  · exact lzssSlide_moves (fun hs => winCopy_wf hs _ _ _) (fun hq => by simp [hi] at hq) hslide

theorem rleOut_moves {i : Instr} {bs : List Byte} {last : Byte} {l : Latch} {w : RleDecWork} {s t : State}
    (h : rleOut bs last l w s = .next t) : ∃ cs m, TokenMove i s l (.rleDec w) cs m t := by
  obtain ⟨cs, hfits, hended⟩ := rleOut_next h
  exact ⟨cs, _, .of_output hfits (hended.mono fun _ hw => hw ▸ rfl)⟩

theorem lzwOutput_moves {i : Instr} {e : List Byte} {c : Nat} {l : Latch} {w : LzwDecWork} {s t : State}
    (h : lzwOutput e c l w s = .next t) : ∃ cs m, TokenMove i s l (.lzwDec w) cs m t := by
  obtain ⟨cs, hfits, hended⟩ := lzwOutput_next h
  exact ⟨cs, _, .of_output hfits (hended.mono fun _ hw => hw ▸ rfl)⟩

theorem vlcWord_moves {i : Instr} {v : Word} {len : Nat} {l : Latch} {w : VlcDecodeWork} {s t : State}
    (h : vlcWord v len l w s = .next t) : ∃ cs m, TokenMove i s l (.vlcDecode w) cs m t := by
  obtain ⟨cs, hfits, hended⟩ := vlcWord_next h
  exact ⟨cs, _, .of_output hfits (hended.mono fun _ hw => hw ▸ rfl)⟩

theorem lzssToken_moves {i : Instr} {us : List LzssUnit} (hi : encode i = .lzss us) {s t : State}
    (h : exec i s = .next t) : ∃ l w, s.engine = .run l w ∧ ∃ bs m, TokenMove i s l w bs m t := by
  cases i with
  | lzssLit v =>
    obtain ⟨l, w, he, h⟩ := withLzssDec_next h
    exact ⟨l, _, he, lzssSlide_moves (fun hs => write_wf hs _ _) (fun hq => by simp [writesWin] at hq) h⟩
  | lzssSref len dist =>
    obtain ⟨l, w, he, h⟩ := withLzssDec_next h
    exact ⟨l, _, he, lzssCopy_moves rfl h⟩
  | lzssLref len dist =>
    obtain ⟨l, w, he, h⟩ := withLzssDec_next h
    exact ⟨l, _, he, lzssCopy_moves rfl h⟩
  | lzssXref len dist =>
    obtain ⟨l, w, he, h⟩ := withLzssDec_next h
    exact ⟨l, _, he, lzssCopy_moves rfl h⟩
  | lzssSeg off =>
    obtain ⟨l, w, he, h⟩ := withLzssDec_next h
    exact ⟨l, _, he, lzssSlide_moves (m := s.win) id (fun _ => ⟨rfl, rfl⟩) h⟩
  | lzssEnd off =>
    obtain ⟨l, w, he, h⟩ := withLzssDec_next h
    obtain ⟨cs, hfits, hended⟩ := lzssEnd_next (by decide) (fun w' => w'.command = Instr.lzssDec) h
    exact ⟨l, _, he, cs, _, .of_output hfits hended⟩
  | _ => cases hi

theorem lzwToken_moves {i : Instr} {k : Nat} (hi : encode i = .lzw k) {s t : State}
    (h : exec i s = .next t) : ∃ l w, s.engine = .run l w ∧ ∃ bs m, TokenMove i s l w bs m t := by
  cases i with
  | lzwByte b =>
    obtain ⟨l, w, he, h⟩ := withLzwDec_next h
    exact ⟨l, _, he, lzwOutput_moves h⟩
  | lzwClr =>
    obtain ⟨l, w, he, h⟩ := withLzwDec_next h
    cases h
    exact ⟨l, _, he, [], _, .of_output (fits_nil _ s) (.runs _ rfl)⟩
  | lzwEntry k =>
    obtain ⟨l, w, he, h⟩ := withLzwDec_next h
    split at h
    · split at h
      · exact ⟨l, _, he, lzwOutput_moves h⟩
      · cases h
    · cases h
  | lzwKwk k =>
    obtain ⟨l, w, he, h⟩ := withLzwDec_next h
    split at h
    · split at h
      · exact ⟨l, _, he, lzwOutput_moves h⟩
      · cases h
    · cases h
  | _ => cases hi

theorem rleToken_moves {i : Instr} {bs : List Byte} (hi : encode i = .rle bs) {s t : State}
    (h : exec i s = .next t) : ∃ l w, s.engine = .run l w ∧ ∃ bs m, TokenMove i s l w bs m t := by
  cases i with
  | rleByte b =>
    obtain ⟨l, w, he, h⟩ := withRleDec_next h
    exact ⟨l, _, he, rleOut_moves h⟩
  | rleEsc =>
    obtain ⟨l, w, he, h⟩ := withRleDec_next h
    exact ⟨l, _, he, rleOut_moves h⟩
  | rleRun n =>
    obtain ⟨l, w, he, h⟩ := withRleDec_next h
    split at h
    · cases h
      exact ⟨l, _, he, _, _, .of_raise _ (by decide)⟩
    · exact ⟨l, _, he, rleOut_moves h⟩
  | _ => cases hi

theorem vlcToken_moves {i : Instr} {bits : List Bool} (hi : encode i = .vlc bits) {s t : State}
    (h : exec i s = .next t) : ∃ l w, s.engine = .run l w ∧ ∃ bs m, TokenMove i s l w bs m t := by
  cases i with
  | vlcTerm path =>
    obtain ⟨l, w, he, h⟩ := withVlcDecode_next h
    split at h
    · cases h
    · split at h
      · cases h
        exact ⟨l, _, he, _, _, .of_raise _ (by decide)⟩
      · exact ⟨l, _, he, vlcWord_moves h⟩
  | vlcZrun path run =>
    obtain ⟨l, w, he, h⟩ := withVlcDecode_next h
    obtain ⟨cs, hfits, hended⟩ := afterEmit_setRun h
    exact ⟨l, _, he, cs, _, .of_output hfits (hended.mono fun _ hw => hw ▸ rfl)⟩
  | vlcDeep path =>
    obtain ⟨l, w, he, h⟩ := withVlcDecode_next h
    split at h
    · cases h
    · split at h
      · cases h
      · exact ⟨l, _, he, vlcWord_moves h⟩
  | _ => cases hi

/-- What every token does. -/
theorem token_moves {i : Instr} (hi : isCommand i = false) {s t : State} (h : exec i s = .next t) :
    ∃ l w, s.engine = .run l w ∧ ∃ bs m, TokenMove i s l w bs m t := by
  cases henc : encode i with
  | command c => simp [isCommand, henc] at hi
  | lzss us => exact lzssToken_moves henc h
  | lzw k => exact lzwToken_moves henc h
  | rle bs => exact rleToken_moves henc h
  | vlc bits => exact vlcToken_moves henc h

/-! ### O45 -/

/-- Below DST_LEN and from the new DST_LEN on, output leaves OUT alone (R105). -/
theorem putAll_outMem_read_outside {cap : Nat} (hcap : cap < 2 ^ 32) {s : State} (hle : s.dstLen.toNat ≤ cap)
    {bs : List Byte} (hfits : Fits cap s bs) {a : Nat}
    (ha : a < s.dstLen.toNat ∨ (s.putAll bs).dstLen.toNat ≤ a) :
    Mem.read (s.putAll bs).outMem a = Mem.read s.outMem a := by
  have hfit := hfits hle hcap
  rw [putAll_dstLen bs (by omega)] at ha
  rw [putAll_outMem bs (by omega), read_writeAll, if_neg (by omega)]

theorem writesWin_eq_false {i : Instr} (hlit : ∀ v, i ≠ .lzssLit v)
    (hcopy : ∀ n d, i ≠ .lzssSref n d ∧ i ≠ .lzssLref n d ∧ i ≠ .lzssXref n d) : writesWin i = false := by
  cases i with
  | lzssLit v => exact absurd rfl (hlit v)
  | lzssSref n d => exact absurd rfl (hcopy n d).1
  | lzssLref n d => exact absurd rfl (hcopy n d).2.1
  | lzssXref n d => exact absurd rfl (hcopy n d).2.2
  | _ => rfl

/-- Settles O45: a token is output and a window update, then the end of its turn. -/
theorem tokenFrame : Obligations.TokenFrame := by
  intro i s t l w hi he hcap hle h
  obtain ⟨l', w', he', bs, m, hmove⟩ := token_moves hi h
  obtain ⟨rfl, rfl⟩ : l = l' ∧ w = w' := by simpa [he] using he'
  have hread : ∀ a, a < s.dstLen.toNat ∨ (s.putAll bs).dstLen.toNat ≤ a →
      Mem.read (s.putAll bs).outMem a = Mem.read s.outMem a :=
    fun a ha => putAll_outMem_read_outside hcap hle hmove.fits ha
  have hwin : (∀ v, i ≠ .lzssLit v) →
      (∀ n d, i ≠ .lzssSref n d ∧ i ≠ .lzssLref n d ∧ i ≠ .lzssXref n d) →
      (∀ dw, w = .lzssDec dw → dw.wp ≤ 0x4000) → m = s.win :=
    fun hlit hcopy hwp => hmove.quiet (writesWin_eq_false hlit hcopy) hwp
  cases hmove.ended with
  | runs w' _ => simpa using ⟨hread, hwin⟩
  | raises f pos _ => simpa using ⟨hread, hwin⟩
  | finishes flags used _ => simpa using ⟨hread, hwin⟩

end Sys2Proof.Machine

/-! # Turns of the engine -/

namespace Sys2Proof.Machine

/-! ## Decoders give tokens of their own streams -/

theorem decodeRle_encode {bs rest : List Byte} {i : Instr} (h : decodeRle bs = .ok (i, rest)) :
    ∃ cs, encode i = .rle cs := by
  unfold decodeRle at h
  split at h
  · cases h
  · split at h
    · split at h
      · cases h
      · split at h <;> cases h <;> exact ⟨_, rfl⟩
    · cases h
      exact ⟨_, rfl⟩

theorem decodeLzw_encode {ctx : LzwCtx} {k : Nat} {i : Instr} (h : decodeLzw ctx k = .ok i) :
    ∃ c, encode i = .lzw c := by
  unfold decodeLzw at h
  repeat' split at h
  all_goals cases h <;> exact ⟨_, rfl⟩

theorem decodeVlc_encode {t : VlcTables} {bits rest : List Bool} {i : Instr}
    (h : decodeVlc t bits = .ok (i, rest)) : ∃ path, encode i = .vlc path := by
  unfold decodeVlc at h
  repeat' split at h
  all_goals cases h <;> exact ⟨_, rfl⟩

/-- What LZSS_DEC fetches is an LZSS token whose operands are in range (R63 to R69). -/
structure IsLzssToken (i : Instr) : Prop where
  units : ∃ us, encode i = .lzss us
  wf : i.wellFormed = true

theorem IsLzssToken.isCommand {i : Instr} (h : IsLzssToken i) : isCommand i = false := by
  obtain ⟨us, hus⟩ := h.units
  rw [Machine.isCommand, hus]

theorem lzssOff13_lt (lo hi : Byte) : lzssOff13 lo hi < 0x2000 := by
  have hlo := lo.isLt
  have hhi := hi.isLt
  rw [lzssOff13]
  omega

theorem lzssEscape_isToken (lo hi e : Byte) : IsLzssToken (lzssEscape lo hi e) := by
  have hoff := lzssOff13_lt lo hi
  have he := e.isLt
  unfold lzssEscape
  split
  · exact ⟨⟨_, rfl⟩, decide_eq_true hoff⟩
  · split
    · exact ⟨⟨_, rfl⟩, decide_eq_true hoff⟩
    · refine ⟨⟨_, rfl⟩, decide_eq_true ?_⟩
      simp only [lzssLongDist, Config.lzssLookback]
      omega

theorem lzssWant_isToken {got : List LzssUnit} {i : Instr} (h : lzssWant got = .token i) : IsLzssToken i := by
  unfold lzssWant at h
  split at h
  case h_3 v =>
    cases h
    exact ⟨⟨_, rfl⟩, rfl⟩
  case h_8 b1 b0 o =>
    cases h
    have h1 := b1.toNat_lt
    have h0 := b0.toNat_lt
    have ho := o.isLt
    refine ⟨⟨_, rfl⟩, decide_eq_true ?_⟩
    simp only [Config.lzssShortMaxDist]
    omega
  case h_11 lo hi =>
    split at h
    · cases h
    · cases h
      have hoff := lzssOff13_lt lo hi
      refine ⟨⟨_, rfl⟩, decide_eq_true ?_⟩
      simp only [lzssLongDist, Config.lzssLookback]
      omega
  case h_12 lo hi e =>
    split at h
    · cases h
      exact lzssEscape_isToken lo hi e
    · cases h
  all_goals cases h

/-! ## The bit stream reader -/

/-- What the reader of LZSS_DEC keeps: the cursor stays in the region, and at most 16 bits are held. -/
structure ReaderOk (l : Latch) (w : LzssDecWork) : Prop where
  bitcnt_le : w.bitcnt ≤ 16
  ip_ge : l.off ≤ w.ip
  ip_le : w.ip ≤ l.off + l.n

/-- What taking units from the stream is: the window's cursor and the count of flushed bytes stand. -/
structure ReaderMove (l : Latch) (w w' : LzssDecWork) : Prop where
  wp : w'.wp = w.wp
  total : w'.total = w.total
  keeps : ReaderOk l w → ReaderOk l w'

theorem ReaderMove.trans {l : Latch} {w w' w'' : LzssDecWork} (h : ReaderMove l w w') (h' : ReaderMove l w' w'') :
    ReaderMove l w w'' :=
  ⟨h'.wp.trans h.wp, h'.total.trans h.total, h'.keeps ∘ h.keeps⟩

/-- The eager reader has nothing to do when a bit is wanted (D11). -/
@[simp] theorem lzssReady_eq (s : State) (l : Latch) (w : LzssDecWork) : lzssReady s l w = w := rfl

theorem lzssRefill_move (s : State) (l : Latch) (w : LzssDecWork) : ReaderMove l w (lzssRefill s l w) := by
  unfold lzssRefill
  split
  case isTrue hroom =>
    refine ⟨rfl, rfl, fun ⟨_, hge, _⟩ => ⟨Nat.le_refl 16, Nat.le_add_right_of_le hge, hroom⟩⟩
  case isFalse => exact ⟨rfl, rfl, fun ⟨_, hge, hle⟩ => ⟨Nat.zero_le 16, hge, hle⟩⟩

theorem lzssGetBit_move (s : State) (l : Latch) (w : LzssDecWork) : ReaderMove l w (lzssGetBit s l w).2 := by
  have htake : ReaderMove l w { w with bitbuf := w.bitbuf >>> 1, bitcnt := w.bitcnt - 1 } :=
    ⟨rfl, rfl, fun ⟨hcnt, hge, hle⟩ => ⟨Nat.le_trans (Nat.sub_le _ _) hcnt, hge, hle⟩⟩
  by_cases hcnt : w.bitcnt - 1 = 0
  · simpa [lzssGetBit, Config.lzssEagerRefill, hcnt] using htake.trans (lzssRefill_move s l _)
  · simpa [lzssGetBit, Config.lzssEagerRefill, hcnt] using htake

theorem lzssFetchFrom_token {s : State} {l : Latch} {fuel : Nat} {got : List LzssUnit} {w w' : LzssDecWork}
    {i : Instr} (h : lzssFetchFrom s l fuel got w = .token i w') : IsLzssToken i ∧ ReaderMove l w w' := by
  induction fuel generalizing got w with
  | zero => cases h
  | succ fuel ih =>
    rw [lzssFetchFrom] at h
    split at h
    case h_1 j hwant =>
      cases h
      exact ⟨lzssWant_isToken hwant, rfl, rfl, id⟩
    case h_2 => cases h
    case h_3 =>
      simp only at h
      split at h
      · cases h
      · obtain ⟨htok, hmove⟩ := ih h
        exact ⟨htok, (lzssGetBit_move s l w).trans hmove⟩
    case h_4 =>
      split at h
      · cases h
      case isFalse hend =>
        obtain ⟨htok, hmove⟩ := ih h
        have htake : ReaderMove l w { w with ip := w.ip + 1 } :=
          ⟨rfl, rfl, fun ⟨hcnt, hge, _⟩ => ⟨hcnt, Nat.le_succ_of_le hge, Nat.lt_of_not_le hend⟩⟩
        exact ⟨htok, htake.trans hmove⟩

theorem lzssFetch_token {s : State} {l : Latch} {w w' : LzssDecWork} {i : Instr}
    (h : lzssFetch s l w = .token i w') : IsLzssToken i ∧ ReaderMove l w w' :=
  lzssFetchFrom_token h

/-! ## The bit stream writer -/

/-- What putting units of a token into LZSS_ENC's output is. -/
structure PutMove (l : Latch) (w : LzssEncWork) (s : State) (w' : LzssEncWork) (t : State) : Prop where
  out : OutputMove l.cap s t
  pos : w'.pos = w.pos
  keeps : LzssEncOk s l w → LzssEncOk t l w'

theorem PutMove.refl (l : Latch) (w : LzssEncWork) (s : State) : PutMove l w s w s := ⟨.refl _ s, rfl, id⟩

theorem PutMove.trans {l : Latch} {w w' w'' : LzssEncWork} {s t u : State} (h : PutMove l w s w' t)
    (h' : PutMove l w' t w'' u) : PutMove l w s w'' u :=
  ⟨h.out.trans h'.out, h'.pos.trans h.pos, h'.keeps ∘ h.keeps⟩

/-- The end in OutputOverflow after some output. -/
def Overflows (l : Latch) (s e : State) : Prop :=
  ∃ u pos, OutputMove l.cap s u ∧ e = raise .outputOverflow pos u

theorem lzssReserve_ok {l : Latch} {w w' : LzssEncWork} {s t : State} (h : lzssReserve l w s = .ok (t, w')) :
    w' = { w with slot := s.dstLen.toNat, cw := 0, cc := 0 } ∧ Fits l.cap s [0, 0] ∧ t = s.putAll [0, 0] := by
  unfold lzssReserve at h
  rcases emitAll_result l.cap (l.off + w.pos) (List.replicate Config.lzssCtlBytes 0) s with
    ⟨hfits, heq⟩ | ⟨cs, hlen, hfits, heq⟩
  · rw [heq] at h
    cases h
    exact ⟨rfl, hfits, rfl⟩
  · rw [heq] at h
    cases h

theorem lzssReserve_error {l : Latch} {w : LzssEncWork} {s e : State} (h : lzssReserve l w s = .error e) :
    ∃ cs, cs.length ≤ 2 ∧ Fits l.cap s cs ∧ e = raise .outputOverflow (l.off + w.pos) (s.putAll cs) := by
  unfold lzssReserve at h
  rcases emitAll_result l.cap (l.off + w.pos) (List.replicate Config.lzssCtlBytes 0) s with
    ⟨hfits, heq⟩ | ⟨cs, hlen, hfits, heq⟩
  · rw [heq] at h
    cases h
  · rw [heq] at h
    cases h
    exact ⟨cs, hlen, hfits, rfl⟩

/-- `PutBit` (R146): the eager writer rolls as the 16th bit is put. -/
theorem lzssPut_bit (l : Latch) (b : Bool) (w : LzssEncWork) (s : State) :
    lzssPut l (.bit b) w s =
      lzssRoll l { w with cw := w.cw ||| (BitVec.ofNat _ b.toNat <<< w.cc), cc := w.cc + 1 } s := rfl

theorem lzssPut_ok {l : Latch} {u : LzssUnit} {w w' : LzssEncWork} {s t : State}
    (h : lzssPut l u w s = .ok (t, w')) : PutMove l w s w' t := by
  cases u with
  | byte v =>
    have hfits : Fits l.cap s [v] ∧ t = s.putAll [v] ∧ w' = w := by
      by_cases hfull : s.dstLen.toNat = l.cap
      · simp [lzssPut, emit_full hfull] at h
      · simp only [lzssPut, emit_room hfull] at h
        cases h
        exact ⟨fits_cons hfull (fits_nil _ _), rfl, rfl⟩
    obtain ⟨hfits, rfl, rfl⟩ := hfits
    refine ⟨hfits.outputMove, rfl, fun hok => ?_⟩
    obtain ⟨hge, hle⟩ := hfits.outputMove.len hok.len_le hok.cap_lt
    exact { hok with slot_le := Nat.le_trans hok.slot_le hge, len_le := hle }
  | bit b =>
    rw [lzssPut_bit, lzssRoll] at h
    split at h
    case isTrue hfull =>
      obtain ⟨rfl, hfits, rfl⟩ := lzssReserve_ok h
      refine ⟨(fillSlot_outputMove _ _ s).trans hfits.outputMove, rfl, fun hok => ?_⟩
      have hlen := hfits hok.len_le hok.cap_lt
      have hput := putAll_dstLen [0, 0] (Nat.lt_of_le_of_lt hlen hok.cap_lt)
      refine { hok with cc_lt := by simp, slot_le := Nat.le_of_eq hput.symm, len_le := ?_ }
      exact hput ▸ hlen
    case isFalse hnot =>
      cases h
      refine ⟨.refl _ s, rfl, fun hok => { hok with cc_lt := ?_ }⟩
      exact Nat.lt_of_le_of_ne hok.cc_lt hnot

theorem lzssPut_error {l : Latch} {u : LzssUnit} {w : LzssEncWork} {s e : State}
    (h : lzssPut l u w s = .error e) : Overflows l s e := by
  cases u with
  | byte v =>
    by_cases hfull : s.dstLen.toNat = l.cap
    · simp only [lzssPut, emit_full hfull] at h
      cases h
      exact ⟨s, _, .refl _ s, rfl⟩
    · simp [lzssPut, emit_room hfull] at h
  | bit b =>
    rw [lzssPut_bit, lzssRoll] at h
    split at h
    · obtain ⟨cs, _, hfits, rfl⟩ := lzssReserve_error h
      exact ⟨_, _, (fillSlot_outputMove _ _ s).trans hfits.outputMove, rfl⟩
    · cases h

theorem lzssPutAll_ok {l : Latch} {us : List LzssUnit} {w w' : LzssEncWork} {s t : State}
    (h : lzssPutAll l us w s = .ok (t, w')) : PutMove l w s w' t := by
  induction us generalizing w s with
  | nil =>
    cases h
    exact .refl l _ _
  | cons u us ih =>
    rw [lzssPutAll] at h
    split at h
    · cases h
    · exact (lzssPut_ok ‹_›).trans (ih h)

theorem lzssPutAll_error {l : Latch} {us : List LzssUnit} {w : LzssEncWork} {s e : State}
    (h : lzssPutAll l us w s = .error e) : Overflows l s e := by
  induction us generalizing w s with
  | nil => cases h
  | cons u us ih =>
    rw [lzssPutAll] at h
    split at h
    case h_1 e' hput =>
      cases h
      exact lzssPut_error hput
    case h_2 t w' hput =>
      obtain ⟨v, pos, hmove, rfl⟩ := ih h
      exact ⟨v, pos, (lzssPut_ok hput).out.trans hmove, rfl⟩

/-! ## The engine's turn -/

/-- What a turn of the engine running `w` does: it moves the data to those of `u`, then goes on or ends. -/
structure EngineMove (l : Latch) (w : Work) (s u t : State) : Prop where
  frame : u.sansData = s.sansData
  memOk : MemOk s → MemOk u
  win : w.command ≠ .lzssDec → u.win = s.win
  ended : Ended l (fun w' => w'.command = w.command ∧
    (s.dstLen.toNat ≤ l.cap → l.cap < 2 ^ 32 → u.dstLen.toNat ≤ l.cap)) u t

/-- A turn that only outputs. -/
theorem EngineMove.of_output {l : Latch} {w : Work} {s u t : State} (hmove : OutputMove l.cap s u)
    (hended : Ended l (fun w' => w'.command = w.command) u t) : EngineMove l w s u t where
  frame := hmove.sansData
  memOk := hmove.memOk
  win _ := hmove.win
  ended := hended.mono fun _ hw => ⟨hw, fun hle hcap => (hmove.len hle hcap).2⟩

theorem EngineMove.of_finish {l : Latch} {w : Work} {s : State} (used : Nat) {flags : Reg}
    (hflags : flags ∈ [0, statusSoftEnd, statusLimit]) : EngineMove l w s s (finish flags used s) :=
  .of_output (.refl _ s) (.finishes flags used hflags)

theorem EngineMove.of_raise {l : Latch} {w : Work} {s : State} (pos : Nat) {f : BlockFault}
    (hf : f.code ∈ raisedCodes) : EngineMove l w s s (raise f pos s) :=
  .of_output (.refl _ s) (.raises f pos hf)

theorem EngineMove.of_overflows {l : Latch} {w : Work} {s e : State} (h : Overflows l s e) :
    ∃ u, EngineMove l w s u e := by
  obtain ⟨u, pos, hmove, rfl⟩ := h
  exact ⟨u, .of_output hmove (.raises _ pos (by decide))⟩

/-- A turn that runs a token it has fetched. -/
theorem EngineMove.of_token {i : Instr} (hi : isCommand i = false) {l : Latch} {w w1 : Work} {s t : State}
    (h : exec i (s.setRun l w1) = .next t) (hw : w1.command = w.command) :
    ∃ u, EngineMove l w s u t := by
  obtain ⟨l', w', he, bs, m, hmove⟩ := token_moves hi h
  cases he
  refine ⟨((s.setRun l w1).putAll bs).setWin m, by simp, fun hs => ?_, fun hne => ?_, ?_⟩
  · obtain ⟨hin, hout, hsit, hwin⟩ := hmove.fits.outputMove.memOk (s := s.setRun l w1) hs
    exact ⟨hin, hout, hsit, hmove.wf (by simpa using hwin)⟩
  · exact hmove.other (hw ▸ hne)
  · exact hmove.ended.mono fun _ hc => ⟨hc.trans hw, fun hle hcap => (hmove.fits.outputMove.len hle hcap).2⟩

theorem setRun_self {s : State} {l : Latch} {w : Work} (h : s.engine = .run l w) : s.setRun l w = s := by
  rw [State.setRun, ← h]

theorem rleDecTurn_moves {l : Latch} {w : RleDecWork} {s t : State} (h : runTurn (rleDecTurn l w s) = .next t) :
    ∃ u, EngineMove l (.rleDec w) s u t := by
  unfold rleDecTurn at h
  split at h
  · cases h
    exact ⟨s, .of_finish _ (by decide)⟩
  · simp only at h
    split at h
    · cases h
      exact ⟨s, .of_raise _ (by decide)⟩
    · obtain ⟨cs, hcs⟩ := decodeRle_encode ‹_›
      exact EngineMove.of_token (by rw [isCommand, hcs]) h rfl

theorem rleEncTurn_moves {l : Latch} {w : RleEncWork} {s t : State} (h : rleEncTurn l w s = .next t) :
    ∃ u, EngineMove l (.rleEnc w) s u t := by
  unfold rleEncTurn at h
  split at h
  · obtain ⟨cs, hfits, hended⟩ := afterEmit_setRun h
    exact ⟨_, .of_output hfits.outputMove (hended.mono fun _ hw => hw ▸ rfl)⟩
  · cases h
    exact ⟨s, .of_finish _ (by decide)⟩

/-- With the bit source exhausted between tokens LZSS_DEC ends softly (R125). -/
theorem lzssDecTurn_soft {w : LzssDecWork} (hcnt : w.bitcnt = 0) (l : Latch) (s : State) :
    lzssDecTurn l w s = .own (lzssEnd statusSoftEnd l w s) := if_pos hcnt

theorem lzssDecTurn_exhausted {l : Latch} {w : LzssDecWork} {s : State} {ip : Nat} (hcnt : w.bitcnt ≠ 0)
    (hf : lzssFetch s l w = .exhausted ip) :
    lzssDecTurn l w s = .own (.next (raise .unexpectedEndOfStream ip s)) := by
  simp [lzssDecTurn, hcnt, hf]

theorem lzssDecTurn_token {l : Latch} {w w' : LzssDecWork} {s : State} {i : Instr} (hcnt : w.bitcnt ≠ 0)
    (hf : lzssFetch s l w = .token i w') : lzssDecTurn l w s = .instr i (s.setRun l (.lzssDec w')) := by
  simp [lzssDecTurn, hcnt, hf]

/-- Everything a turn of LZSS_DEC is (R124, R125). -/
theorem lzssDecTurn_cases (l : Latch) (w : LzssDecWork) (s : State) :
    w.bitcnt = 0 ∨ (∃ ip, w.bitcnt ≠ 0 ∧ lzssFetch s l w = .exhausted ip) ∨
      ∃ i w', w.bitcnt ≠ 0 ∧ lzssFetch s l w = .token i w' := by
  by_cases hcnt : w.bitcnt = 0
  · exact .inl hcnt
  · cases hf : lzssFetch s l w with
    | exhausted ip => exact .inr (.inl ⟨ip, hcnt, rfl⟩)
    | token i w' => exact .inr (.inr ⟨i, w', hcnt, rfl⟩)

theorem lzssDecTurn_moves {l : Latch} {w : LzssDecWork} {s t : State} (h : runTurn (lzssDecTurn l w s) = .next t) :
    ∃ u, EngineMove l (.lzssDec w) s u t := by
  rcases lzssDecTurn_cases l w s with hcnt | ⟨ip, hcnt, hf⟩ | ⟨i, w', hcnt, hf⟩
  · rw [lzssDecTurn_soft hcnt] at h
    obtain ⟨cs, hfits, hended⟩ := lzssEnd_next (by decide) _ h
    exact ⟨_, .of_output hfits.outputMove hended⟩
  · rw [lzssDecTurn_exhausted hcnt hf] at h
    cases h
    exact ⟨s, .of_raise _ (by decide)⟩
  · rw [lzssDecTurn_token hcnt hf] at h
    exact EngineMove.of_token (lzssFetch_token hf).1.isCommand h rfl

theorem lzssEncTurn_moves {l : Latch} {w : LzssEncWork} {s t : State} (h : lzssEncTurn l w s = .next t) :
    ∃ u, EngineMove l (.lzssEnc w) s u t := by
  unfold lzssEncTurn at h
  split at h
  · simp only at h
    split at h
    · cases h
      exact EngineMove.of_overflows (lzssPutAll_error ‹_›)
    · cases h
      exact ⟨_, .of_output (lzssPutAll_ok ‹_›).out (.runs _ rfl)⟩
  · split at h
    · cases h
      exact EngineMove.of_overflows (lzssPutAll_error ‹_›)
    case h_2 u w' hput =>
      obtain ⟨cs, hfits, hended⟩ := afterEmit_finish (by decide) _ h
      exact ⟨_, .of_output (((lzssPutAll_ok hput).out.trans (fillSlot_outputMove _ w' u)).trans hfits.outputMove)
        hended⟩

theorem lzwDecTurn_moves {l : Latch} {w : LzwDecWork} {s t : State} (h : runTurn (lzwDecTurn l w s) = .next t) :
    ∃ u, EngineMove l (.lzwDec w) s u t := by
  unfold lzwDecTurn at h
  simp only at h
  split at h
  · cases h
    exact ⟨s, .of_finish _ (by decide)⟩
  · split at h
    · cases h
      exact ⟨s, .of_raise _ (by decide)⟩
    · obtain ⟨c, hc⟩ := decodeLzw_encode ‹_›
      exact EngineMove.of_token (by rw [isCommand, hc]) h rfl

theorem lzwEncTurn_moves {l : Latch} {w : LzwEncWork} {s t : State} (h : lzwEncTurn l w s = .next t) :
    ∃ u, EngineMove l (.lzwEnc w) s u t := by
  unfold lzwEncTurn at h
  split at h
  · obtain ⟨cs, hfits, hended⟩ := afterEmit_setRun h
    exact ⟨_, .of_output hfits.outputMove (hended.mono fun _ hw => hw ▸ rfl)⟩
  · obtain ⟨cs, hfits, hended⟩ := afterEmit_finish (by decide) _ h
    exact ⟨_, .of_output hfits.outputMove hended⟩

theorem waveletTurn_moves {l : Latch} {w : WaveletWork} {s t : State} (h : waveletTurn l w s = .next t) :
    ∃ u, EngineMove l (.wavelet w) s u t := by
  unfold waveletTurn at h
  split at h
  · cases h
    exact ⟨s, .of_output (.refl _ s) (.runs _ rfl)⟩
  · split at h
    · split at h
      · cases h
        exact ⟨s, .of_raise _ (by decide)⟩
      · cases h
        exact ⟨s, .of_output (.refl _ s) (.runs _ rfl)⟩
    · cases h
      refine ⟨_, ?_, ?_, ?_, .finishes _ _ (by decide)⟩
      · rfl
      · exact fun ⟨hin, hout, hsit, hwin⟩ => ⟨hin, writeAll_wf hout _ _, hsit, hwin⟩
      · exact fun _ => rfl

theorem vlcBuildTurn_moves {l : Latch} {w : VlcBuildWork} {s t : State} (h : vlcBuildTurn l w s = .next t) :
    ∃ u, EngineMove l (.vlcBuild w) s u t := by
  unfold vlcBuildTurn at h
  split at h
  · cases h
    refine ⟨_, ?_, ?_, ?_, .runs _ ⟨rfl, ?_⟩⟩
    · rfl
    · exact id
    · exact fun _ => rfl
    · exact fun hle _ => hle
  · unfold vlcBuildEnd at h
    split at h
    · cases h
      exact ⟨s, .of_raise _ (by decide)⟩
    · split at h
      · cases h
      · cases h
        refine ⟨_, ?_, ?_, ?_, .finishes _ _ (by decide)⟩
        · rfl
        · exact id
        · exact fun _ => rfl

theorem vlcDecodeTurn_moves {l : Latch} {w : VlcDecodeWork} {s t : State} (he : s.engine = .run l (.vlcDecode w))
    (h : runTurn (vlcDecodeTurn l w s) = .next t) : ∃ u, EngineMove l (.vlcDecode w) s u t := by
  unfold vlcDecodeTurn at h
  split at h
  · cases h
    exact ⟨s, .of_finish _ (by decide)⟩
  · split at h
    · cases h
      exact ⟨s, .of_finish _ (by decide)⟩
    · split at h
      · rw [← setRun_self he] at h
        obtain ⟨path, hpath⟩ := decodeVlc_encode ‹_›
        exact EngineMove.of_token (by rw [isCommand, hpath]) h rfl
      · cases h
      · cases h
        exact ⟨s, .of_finish _ (by decide)⟩

/-- What every turn of the engine does. -/
theorem engineTurn_moves {l : Latch} {w : Work} {s t : State} (he : s.engine = .run l w)
    (h : runTurn (engineTurn l w s) = .next t) : ∃ u, EngineMove l w s u t := by
  cases w with
  | lzssDec w => exact lzssDecTurn_moves h
  | lzssEnc w => exact lzssEncTurn_moves h
  | lzwDec w => exact lzwDecTurn_moves h
  | lzwEnc w => exact lzwEncTurn_moves h
  | rleDec w => exact rleDecTurn_moves h
  | rleEnc w => exact rleEncTurn_moves h
  | wavelet w => exact waveletTurn_moves h
  | vlcBuild w => exact vlcBuildTurn_moves h
  | vlcDecode w => exact vlcDecodeTurn_moves he h

/-- What a turn does not touch, as any function of the state that reads nothing else. -/
theorem EngineMove.keeps {l : Latch} {w : Work} {s u t : State} (h : EngineMove l w s u t) {α : Type}
    {f : State → α} (hf : ∀ v : State, f v.sansData.sansEnd = f v) : f t = f s := by
  have hend : t.sansData.sansEnd = u.sansData.sansEnd := (congrArg State.sansData h.ended.sansEnd :)
  rw [← hf t, hend, h.frame, hf s]

/-! ### O48 -/

theorem EngineMove.hostSideKept {l : Latch} {w : Work} {s u t : State} (h : EngineMove l w s u t) :
    HostSideKept s t where
  inMem := h.keeps fun _ => rfl
  sit := h.keeps fun _ => rfl
  cmd := h.keeps fun _ => rfl
  srcOff := h.keeps fun _ => rfl
  srcLen := h.keeps fun _ => rfl
  dstCap := h.keeps fun _ => rfl
  arg0 := h.keeps fun _ => rfl
  arg1 := h.keeps fun _ => rfl
  doneSeen := h.keeps fun _ => rfl
  reads := h.keeps fun _ => rfl
  resets := h.keeps fun _ => rfl
  starts := h.keeps fun _ => rfl

theorem EngineMove.host {l : Latch} {w : Work} {s u t : State} (h : EngineMove l w s u t) : t.host = s.host :=
  h.keeps fun _ => rfl

theorem HostSideKept.refl (s : State) : HostSideKept s s :=
  ⟨rfl, rfl, rfl, rfl, rfl, rfl, rfl, rfl, rfl, rfl, rfl, rfl⟩

/-- Settles O48: an engine step is one turn (log 6), which leaves the host's side alone. -/
theorem engineKeepsHostMemories : Obligations.EngineKeepsHostMemories := by
  intro s t h
  refine ⟨fun hh => ?_, fun e rest hh hrun hd => ?_⟩
  · cases he : s.engine with
    | idle =>
      rw [step_idle he hh] at h
      cases h
      exact ⟨.refl s, hh⟩
    | run l w =>
      rw [step_engine he hh] at h
      obtain ⟨u, hmove⟩ := engineTurn_moves he h
      exact ⟨hmove.hostSideKept, hmove.host.trans hh⟩
  · cases he : s.engine with
    | idle => simp [running, he] at hrun
    | run l w =>
      rw [step_delayed he hh hd] at h
      obtain ⟨u, hmove⟩ := engineTurn_moves (by simpa using he) h
      exact ⟨{ hmove.hostSideKept with }, hmove.host⟩

end Sys2Proof.Machine

/-! # Command starts -/

namespace Sys2Proof.Machine

/-- The family invariants of Safety, as one predicate of the working state. -/
def WorkOk (s : State) (l : Latch) : Work → Prop
  | .lzssDec w => LzssDecOk s l w
  | .lzssEnc w => LzssEncOk s l w
  | .lzwDec w => LzwDecOk l w
  | .lzwEnc w => LzwEncOk l w
  | .wavelet w => WaveletOk l w
  | .rleDec _ => True
  | .rleEnc _ => True
  | .vlcBuild _ => True
  | .vlcDecode _ => True

/-- Without what a command's start may change after it has begun. -/
def State.sansStart (s : State) : State := { s.sansOutput with tab1 := [], tabInfo := 0 }

/-- The working state `w` with which command `i`, written in state `s`, starts to run on the data of `u`. -/
structure StartOk (i : Instr) (s u : State) (w : Work) : Prop where
  command : w.command = i
  fits : operandsFit (latchOf s) = true
  written : regionWritten s (latchOf s) = true
  len_le : u.dstLen.toNat ≤ (latchOf s).cap
  /-- Whatever an earlier command left in WIN (R23). -/
  ok : ∀ m, WorkOk (u.setWin m) (latchOf s) w

/-- A command starts with none of WIN written, so with `wp` 0 (R124). -/
theorem StartOk.wp_eq_zero {i : Instr} {s u : State} {w : LzssDecWork} (h : StartOk i s u (.lzssDec w)) : w.wp = 0 := by
  have hok : LzssDecOk (u.setWin []) (latchOf s) w := h.ok []
  by_contra hne
  simpa using hok.written 0 (Nat.pos_of_ne_zero hne)

/-- What the start of command `i` does while the block is not busy: it begins (R101), moves the data to those of `u`,
then runs or ends. -/
structure CommandMove (i : Instr) (s u t : State) : Prop where
  frame : u.sansStart = (s.begin (commandValue i)).sansStart
  tab1 : i ≠ .vlcBuild → u.tab1 = s.tab1
  tabInfo : u.tabInfo = if i ∈ [Instr.vlcBuild, .clear] then 0 else s.tabInfo
  outRead : ∀ a, i ≠ .lzssEnc ∨ 2 ≤ a → Mem.read u.outMem a = Mem.read s.outMem a
  outWf : Mem.wf s.outMem → Mem.wf u.outMem
  ended : Ended (latchOf s) (StartOk i s u) u t

/-- Everything a write of command `i` to CMD is: ignored, or a start. -/
def CommandNext (i : Instr) (s t : State) : Prop :=
  (busy s = true ∧ t = s) ∨ (busy s = false ∧ ∃ u, CommandMove i s u t)

theorem startCommand_next {c : Reg} {s t : State} {k : State → Out} (h : startCommand c s k = .next t) :
    (busy s = true ∧ t = s) ∨ (busy s = false ∧ k (s.begin c) = .next t) := by
  cases hb : busy s with
  | true =>
    rw [startCommand_busy hb] at h
    exact .inl ⟨rfl, (Host.Outcome.next.inj h).symm⟩
  | false =>
    rw [startCommand_free hb] at h
    exact .inr ⟨rfl, h⟩

theorem checkOperands_next {s t : State} {k : Latch → State → Out} (h : checkOperands s k = .next t) :
    t = raise .badParameter 0 s ∨ (operandsFit (latchOf s) = true ∧ k (latchOf s) s = .next t) := by
  cases hf : operandsFit (latchOf s) with
  | true =>
    rw [checkOperands_ok hf] at h
    exact .inr ⟨rfl, h⟩
  | false =>
    rw [checkOperands_bad hf] at h
    exact .inl (Host.Outcome.next.inj h).symm

/-- A command that has only begun when it runs or ends. -/
theorem CommandMove.of_begin {i : Instr} (hi : i ∉ [Instr.vlcBuild, .clear]) {s t : State}
    (h : Ended (latchOf s) (StartOk i s (s.begin (commandValue i))) (s.begin (commandValue i)) t) :
    CommandMove i s (s.begin (commandValue i)) t where
  frame := rfl
  tab1 _ := rfl
  tabInfo := by simp [hi]
  outRead _ _ := rfl
  outWf := id
  ended := h

/-- The common frame of the commands but CLEAR and VLC_BUILD: what is left is the family's rule `k`. -/
theorem startFamily_next {i : Instr} (hi : i ∉ [Instr.vlcBuild, .clear]) {s t : State} {k : Latch → State → Out}
    (h : startFamily (commandValue i) s k = .next t)
    (hk : operandsFit (latchOf s) = true → k (latchOf s) (s.begin (commandValue i)) = .next t →
      ∃ u, CommandMove i s u t) : CommandNext i s t := by
  rcases startCommand_next h with hbusy | ⟨hfree, h⟩
  · exact .inl hbusy
  · rcases checkOperands_next h with rfl | ⟨hfits, h⟩
    · exact .inr ⟨hfree, _, .of_begin hi (.raises _ _ (by decide))⟩
    · exact .inr ⟨hfree, hk hfits h⟩

/-- A command that starts to run right after it has begun. -/
theorem startRun_next {i : Instr} (hi : i ∉ [Instr.vlcBuild, .clear]) {s t : State} {w : Work}
    (hfits : operandsFit (latchOf s) = true)
    (h : requireInput (s.begin (commandValue i)) (latchOf s)
      (.next ((s.begin (commandValue i)).setRun (latchOf s) w)) = .next t)
    (hw : w.command = i) (hok : ∀ m, WorkOk ((s.begin (commandValue i)).setWin m) (latchOf s) w) :
    ∃ u, CommandMove i s u t := by
  obtain ⟨hwritten, hrun⟩ := requireInput_next h
  cases hrun
  exact ⟨_, .of_begin hi (.runs w ⟨hw, hfits, hwritten, Nat.zero_le _, hok⟩)⟩

/-! ### The working states commands start with -/

theorem latchOf_cap_lt (s : State) : (latchOf s).cap < 2 ^ 32 := s.dstCap.isLt

theorem LzssDecOk.start {u : State} {l : Latch} {w : LzssDecWork} (hreader : ReaderOk l w) (hwp : w.wp = 0)
    (htotal : w.total = 0) (hlen : u.dstLen = 0) (hcap : l.cap < 2 ^ 32) : LzssDecOk u l w where
  wp_le := by omega
  written a ha := by omega
  total_eq := by simp [htotal, hlen]
  history := .inl htotal
  bitcnt_le := hreader.bitcnt_le
  ip_ge := hreader.ip_ge
  ip_le := hreader.ip_le
  cap_lt := hcap
  len_le := by simp [hlen]

theorem lzwMaxWidth?_some {l : Latch} {m : Nat} (h : lzwMaxWidth? l = some m) : 9 ≤ m ∧ m ≤ 12 := by
  unfold lzwMaxWidth? at h
  split at h
  case isTrue hw =>
    cases h
    simp only [Config.lzwMinBits, Config.lzwMaxLimit] at hw
    omega
  case isFalse => cases h

theorem LzwDecOk.start {l : Latch} {m : Nat} (h : lzwMaxWidth? l = some m) :
    LzwDecOk l { p := 0, w := Config.lzwMinBits, maxW := m, dict := [], prev := none } := by
  obtain ⟨hge, hle⟩ := lzwMaxWidth?_some h
  have hpow : 2 ^ 9 ≤ 2 ^ m := Nat.pow_le_pow_right (by decide) hge
  exact {
    w_ge := Nat.le_refl 9
    w_le := hge
    max_le := hle
    next_le := Nat.le_trans (show 257 ≤ 2 ^ 9 by decide) hpow
    strings := nofun
    noPrev := fun _ => rfl
    prev_str := nofun
    p_le := Nat.zero_le _ }

theorem LzwEncOk.start {l : Latch} {m : Nat} (h : lzwMaxWidth? l = some m) :
    LzwEncOk l { i := 0, w := Config.lzwMinBits, maxW := m, dict := [], pre := none, acc := [] } where
  w_ge := Nat.le_refl 9
  w_le := (lzwMaxWidth?_some h).1
  max_le := (lzwMaxWidth?_some h).2
  next_le := show 257 ≤ 2 ^ 9 by decide
  pre_lt := nofun
  acc_lt := show 0 < 8 by decide
  i_le := Nat.zero_le _

theorem WaveletOk.start {l : Latch} (hsizes : wavSizesOk l.a0 l.a1 = true)
    (hroom : Config.wordBytes * (l.a1 * l.a1) ≤ l.cap) {coef : List Word} (hlen : coef.length = l.a1 * l.a1) :
    WaveletOk l { size := l.a1, t := l.a0, coef := coef, y := none } := by
  simp only [wavSizesOk, Bool.and_eq_true, decide_eq_true_eq, List.any_eq_true, beq_iff_eq] at hsizes
  obtain ⟨⟨hpos, _, hplane⟩, k, _, hk⟩ := hsizes
  exact {
    t_pos := hpos
    sizes := ⟨k, hk.symm⟩
    plane := hplane
    room := hroom
    loaded := hlen
    scratch := nofun }

/-! ### Command by command -/

theorem execRleDec_next {s t : State} (h : execRleDec s = .next t) : CommandNext .rleDec s t :=
  startFamily_next (by decide) h fun hfits h => startRun_next (by decide) hfits h rfl fun _ => trivial

theorem execRleEnc_next {s t : State} (h : execRleEnc s = .next t) : CommandNext .rleEnc s t :=
  startFamily_next (by decide) h fun hfits h => startRun_next (by decide) hfits h rfl fun _ => trivial

theorem execLzssDec_next {s t : State} (h : execLzssDec s = .next t) : CommandNext .lzssDec s t := by
  refine startFamily_next (by decide) h fun hfits h => ?_
  have hmove := lzssRefill_move (s.begin (commandValue .lzssDec)) (latchOf s)
    { ip := (latchOf s).off, bitbuf := Config.unspecBitbuf (s.starts + 1), bitcnt := 0, wp := 0, total := 0 }
  have hreader := hmove.keeps ⟨Nat.zero_le _, Nat.le_refl _, Nat.le_add_right _ _⟩
  exact startRun_next (by decide) hfits h rfl fun _ =>
    LzssDecOk.start hreader hmove.wp hmove.total rfl (latchOf_cap_lt s)

theorem execLzwDec_next {s t : State} (h : execLzwDec s = .next t) : CommandNext .lzwDec s t := by
  refine startFamily_next (by decide) h fun hfits h => ?_
  split at h
  · cases h
    exact ⟨_, .of_begin (by decide) (.raises _ _ (by decide))⟩
  · exact startRun_next (by decide) hfits h rfl fun _ => LzwDecOk.start ‹_›

theorem execLzwEnc_next {s t : State} (h : execLzwEnc s = .next t) : CommandNext .lzwEnc s t := by
  refine startFamily_next (by decide) h fun hfits h => ?_
  split at h
  · cases h
    exact ⟨_, .of_begin (by decide) (.raises _ _ (by decide))⟩
  · exact startRun_next (by decide) hfits h rfl fun _ => LzwEncOk.start ‹_›

theorem execWaveletInv_next {s t : State} (h : execWaveletInv s = .next t) : CommandNext .waveletInv s t := by
  refine startFamily_next (by decide) h fun hfits h => ?_
  split at h
  · cases h
    exact ⟨_, .of_begin (by decide) (.raises _ _ (by decide))⟩
  case isFalse hsizes =>
    split at h
    · cases h
      exact ⟨_, .of_begin (by decide) (.raises _ _ (by decide))⟩
    · split at h
      · cases h
        exact ⟨_, .of_begin (by decide) (.raises _ _ (by decide))⟩
      case isFalse hroom =>
        exact startRun_next (by decide) hfits h rfl fun _ =>
          WaveletOk.start (by simpa using hsizes) (Nat.le_of_not_lt hroom) (by simp)

theorem execVlcDecode_next {s t : State} (h : execVlcDecode s = .next t) : CommandNext .vlcDecode s t := by
  refine startFamily_next (by decide) h fun hfits h => ?_
  split at h
  · cases h
    exact ⟨_, .of_begin (by decide) (.raises _ _ (by decide))⟩
  · exact startRun_next (by decide) hfits h rfl fun _ => trivial

theorem execClear_next {s t : State} (h : execClear s = .next t) : CommandNext .clear s t := by
  rcases startCommand_next h with hbusy | ⟨hfree, h⟩
  · exact .inl hbusy
  · cases h
    exact .inr ⟨hfree, (s.begin (commandValue .clear)).clearTab, rfl, fun _ => rfl, rfl, fun _ _ => rfl, id,
      .finishes _ _ (by decide)⟩

/-- The first control word of LZSS_ENC is reserved at OUT[0..1] (R145). -/
theorem reserved_move {s t : State} {cs : List Byte} (hcs : cs.length ≤ 2)
    (h : Ended (latchOf s) (StartOk .lzssEnc s ((s.begin (commandValue .lzssEnc)).putAll cs))
      ((s.begin (commandValue .lzssEnc)).putAll cs) t) :
    CommandMove .lzssEnc s ((s.begin (commandValue .lzssEnc)).putAll cs) t where
  frame := (congrArg State.sansStart (putAll_sansOutput _ cs) :)
  tab1 _ := by simp
  tabInfo := by simp
  outRead a ha := by
    have hle : 2 ≤ a := by simpa using ha
    rw [putAll_outMem _ (by simp; omega), read_writeAll, if_neg (by simp; omega)]
    rfl
  outWf hwf := putAll_outMem_wf (s := s.begin (commandValue .lzssEnc)) hwf cs
  ended := h

theorem execLzssEnc_next {s t : State} (h : execLzssEnc s = .next t) : CommandNext .lzssEnc s t := by
  refine startFamily_next (by decide) h fun hfits h => ?_
  obtain ⟨hwritten, h⟩ := requireInput_next h
  split at h
  case h_1 e hres =>
    obtain ⟨cs, hlen, _, rfl⟩ := lzssReserve_error hres
    cases h
    exact ⟨_, reserved_move hlen (.raises _ _ (by decide))⟩
  case h_2 u w hres =>
    obtain ⟨rfl, hroom, rfl⟩ := lzssReserve_ok hres
    cases h
    have hlen := hroom (Nat.zero_le _) (latchOf_cap_lt s)
    have hput := putAll_dstLen (s := s.begin (commandValue .lzssEnc)) [0, 0] (by simp)
    refine ⟨_, reserved_move (cs := [0, 0]) (Nat.le_refl 2)
      (.runs _ ⟨rfl, hfits, hwritten, hput ▸ hlen, fun m => ?_⟩)⟩
    exact {
      cc_lt := show 0 < 16 by decide
      slot_le := Nat.le_of_eq hput.symm
      pos_le := Nat.zero_le _
      cap_lt := latchOf_cap_lt s
      len_le := hput ▸ hlen }

/-- VLC_BUILD's start kills the tables (R233; log 23), whatever it leaves of TAB1. -/
theorem built_move {s u t : State} (hu : u.sansStart = (s.begin (commandValue .vlcBuild)).sansStart)
    (htab : u.tabInfo = 0) (hout : u.outMem = s.outMem) (h : Ended (latchOf s) (StartOk .vlcBuild s u) u t) :
    CommandMove .vlcBuild s u t where
  frame := hu
  tab1 hne := absurd rfl hne
  tabInfo := htab
  outRead a _ := by rw [hout]
  outWf hwf := by rwa [hout]
  ended := h

theorem execVlcBuild_next {s t : State} (h : execVlcBuild s = .next t) : CommandNext .vlcBuild s t := by
  rcases startCommand_next h with hbusy | ⟨hfree, h⟩
  · exact .inl hbusy
  refine .inr ⟨hfree, ?_⟩
  have hraise : ∀ {f : BlockFault} {pos : Nat}, f.code ∈ raisedCodes →
      ∃ u, CommandMove .vlcBuild s u (raise f pos (s.begin (commandValue .vlcBuild)).clearTab) :=
    fun hf => ⟨(s.begin (commandValue .vlcBuild)).clearTab, built_move rfl rfl rfl (.raises _ _ hf)⟩
  rcases checkOperands_next h with rfl | ⟨hfits, h⟩
  · exact hraise (by decide)
  split at h
  · cases h
    exact hraise (by decide)
  · split at h
    · cases h
      exact hraise (by decide)
    · obtain ⟨hwritten, h⟩ := requireInput_next h
      simp only at h
      split at h
      · cases h
        exact hraise (by decide)
      · cases h
        exact ⟨((s.begin (commandValue .vlcBuild)).clearTab).setTab1 [], built_move rfl rfl rfl
          (.runs _ ⟨rfl, hfits, hwritten, Nat.zero_le _, fun _ => trivial⟩)⟩

/-- What every command's write to CMD does. -/
theorem command_next {i : Instr} (hi : isCommand i = true) {s t : State} (h : exec i s = .next t) :
    CommandNext i s t := by
  cases i with
  | lzssDec => exact execLzssDec_next h
  | lzssEnc => exact execLzssEnc_next h
  | lzwDec => exact execLzwDec_next h
  | lzwEnc => exact execLzwEnc_next h
  | rleDec => exact execRleDec_next h
  | rleEnc => exact execRleEnc_next h
  | waveletInv => exact execWaveletInv_next h
  | vlcBuild => exact execVlcBuild_next h
  | vlcDecode => exact execVlcDecode_next h
  | clear => exact execClear_next h
  | _ => cases hi

/-- What a command's start leaves alone, as any function of the state that reads nothing else. -/
theorem CommandMove.keeps {i : Instr} {s u t : State} (h : CommandMove i s u t) {α : Type} {f : State → α}
    (hf : ∀ v : State, f v.sansStart.sansEnd = f v) : f t = f (s.begin (commandValue i)) := by
  have hend : t.sansStart.sansEnd = u.sansStart.sansEnd := (congrArg State.sansStart h.ended.sansEnd :)
  rw [← hf t, hend, h.frame, hf]

/-! ### O47 -/

/-- Settles O47: a command write is ignored, or begins, moves what its start moves, and runs or ends. -/
theorem commandFrame : Obligations.CommandFrame := by
  intro i s t hi h
  rcases command_next hi h with ⟨hbusy, rfl⟩ | ⟨hfree, u, hmove⟩
  · simp [hbusy]
  have htab : t.tabInfo = u.tabInfo := (congrArg State.tabInfo hmove.ended.sansEnd :)
  have htab1 : t.tab1 = u.tab1 := (congrArg State.tab1 hmove.ended.sansEnd :)
  have hout : t.outMem = u.outMem := (congrArg State.outMem hmove.ended.sansEnd :)
  refine ⟨by simp [hfree],
    fun _ => ⟨hmove.keeps fun _ => rfl, hmove.keeps fun _ => rfl, hmove.keeps fun _ => rfl, ?_⟩,
    hmove.keeps fun _ => rfl, hmove.keeps fun _ => rfl, hmove.keeps fun _ => rfl, hmove.keeps fun _ => rfl,
    hmove.keeps fun _ => rfl, hmove.keeps fun _ => rfl, hmove.keeps fun _ => rfl, hmove.keeps fun _ => rfl,
    hmove.keeps fun _ => rfl, hmove.keeps fun _ => rfl, hmove.keeps fun _ => rfl, hmove.keeps fun _ => rfl,
    fun hne => htab1.trans (hmove.tab1 hne), fun hne hne' => ?_, fun a ha => hout ▸ hmove.outRead a ha⟩
  · intro hmem
    rw [tabValid, htab, hmove.tabInfo, if_pos hmem]
    rfl
  · rw [htab, hmove.tabInfo, if_neg (by simp [hne, hne'])]

end Sys2Proof.Machine

/-! # Every step: the canonical stores and the control invariant -/

namespace Sys2Proof.Machine

/-! ## Host accesses -/

/-- Everything an access of the host, or a reset, can do where it does not stop the machine. -/
inductive HostMove (s : State) : State → Prop
  /-- A write that has no effect. -/
  | ignored : HostMove s s
  /-- A read: it returns a value; of STATUS with DONE = 1 it hands the results over (R43, R48). -/
  | reads (rs : List Reg) (d : Bool) (h : d = true → s.doneSeen = true ∨ doneBit s = true) :
      HostMove s { s with reads := rs, doneSeen := d }
  | operand (r : Nat) (v : Reg) (h : hostOwns s = true) : HostMove s (writeOperand s r v)
  | writeIn (a : Nat) (v : Byte) (h : hostOwns s = true) : HostMove s { s with inMem := Mem.write s.inMem a v }
  | writeSit (a : Nat) (v : Word) (h : hostOwns s = true) : HostMove s (hostWriteSit a v s)
  | command (i : Instr) (u t : State) (h : busy s = false) (hmove : CommandMove i s u t) : HostMove s t
  | illegal (c : Reg) : HostMove s (raise .illegalCommand 0 (s.begin c))
  | reset : HostMove s (hostReset s)

theorem decodeCommand_isCommand {c : Reg} {i : Instr} (h : decodeCommand c = .ok i) : isCommand i = true := by
  unfold decodeCommand at h
  split at h <;> cases h <;> rfl

theorem hostWriteReg_next {r : Nat} {v : Reg} {s t : State} (hown : hostOwns s = true)
    (h : runTurn (hostWriteReg r v s) = .next t) : HostMove s t := by
  unfold hostWriteReg at h
  split at h
  · split at h
    · rcases command_next (decodeCommand_isCommand ‹_›) h with ⟨_, rfl⟩ | ⟨hfree, u, hmove⟩
      · exact .ignored
      · exact .command _ u t hfree hmove
    · rw [runTurn_own, illegalCommand] at h
      rcases startCommand_next h with ⟨_, rfl⟩ | ⟨_, h⟩
      · exact .ignored
      · cases h
        exact .illegal v
  · cases h
    exact .operand r v hown

theorem hostReadReg_move (r : Nat) (s : State) : HostMove s (hostReadReg r s) := by
  unfold hostReadReg
  split
  · exact .reads _ s.doneSeen .inl
  · split
    · exact .reads _ _ fun h => by simpa using h
    · exact .reads _ s.doneSeen .inl

theorem inAperture_next {there : Bool} {s t : State} (h : runTurn (inAperture there s) = .next t) : t = s := by
  unfold inAperture at h
  split at h <;> cases h
  rfl

/-- A write of a cell counts only while the host owns the block (R47). -/
theorem HostMove.of_owned {s t : State} (h : hostOwns s = true → HostMove s t) :
    HostMove s (if hostOwns s then t else s) := by
  split
  · exact h ‹_›
  · exact .ignored

theorem hostTurn_next {op : HostOp} {s t : State} (h : runTurn (hostTurn op s) = .next t) : HostMove s t := by
  cases op with
  | writeReg r v =>
    cases hown : hostOwns s with
    | true =>
      rw [hostTurn_write hown] at h
      exact hostWriteReg_next hown h
    | false =>
      rw [hostTurn_write_ignored hown] at h
      cases h
      exact .ignored
  | readReg r =>
    cases h
    exact hostReadReg_move r s
  | writeIn a v => exact inAperture_next h ▸ .of_owned (.writeIn a v)
  | readIn a => exact inAperture_next h ▸ .reads _ s.doneSeen .inl
  | readOut a => exact inAperture_next h ▸ .reads _ s.doneSeen .inl
  | writeSit a v => exact inAperture_next h ▸ .of_owned (.writeSit a v)
  | readSit a => exact inAperture_next h ▸ .reads _ s.doneSeen .inl
  | reset =>
    cases h
    exact .reset

/-- Everything one step can do: nothing, a turn of the engine, or an access of the host. -/
theorem step_next {s t : State} (h : step s = .next t) :
    t = s ∨
      (∃ l w q u, s.engine = .run l w ∧ runTurn (engineTurn l w (s.setHost q)) = .next t ∧
        EngineMove l w (s.setHost q) u t) ∨
      ∃ q, HostMove (s.setHost q) t := by
  rcases step_cases s with ⟨_, _, heq⟩ | ⟨l, w, q, he, heq⟩ | ⟨e, rest, _, heq⟩
  · rw [heq] at h
    exact .inl (Host.Outcome.next.inj h).symm
  · rw [heq] at h
    obtain ⟨u, hmove⟩ := engineTurn_moves (by simpa using he) h
    exact .inr (.inl ⟨l, w, q, u, he, h, hmove⟩)
  · rw [heq] at h
    exact .inr (.inr ⟨rest, hostTurn_next h⟩)

/-! ### O53 -/

theorem HostMove.memOk {s t : State} (h : HostMove s t) (hs : MemOk s) : MemOk t := by
  obtain ⟨hin, hout, hsit, hwin⟩ := hs
  cases h with
  | ignored => exact ⟨hin, hout, hsit, hwin⟩
  | reads rs d => exact ⟨hin, hout, hsit, hwin⟩
  | operand r v =>
    unfold writeOperand
    split <;> exact ⟨hin, hout, hsit, hwin⟩
  | writeIn a v => exact ⟨write_wf hin a v, hout, hsit, hwin⟩
  | writeSit a v => exact ⟨hin, hout, hostWriteSit_wf hsit a v, hwin⟩
  | command i u t _ hmove =>
    refine hmove.ended.memOk ⟨?_, hmove.outWf hout, ?_, ?_⟩
    · exact (congrArg State.inMem hmove.frame :) ▸ hin
    · exact (congrArg State.sit hmove.frame :) ▸ hsit
    · exact (congrArg State.win hmove.frame :) ▸ hwin
  | illegal c => exact ⟨hin, hout, hsit, hwin⟩
  | reset => exact reset_mem_wf

/-- Settles O53: each way a step can go keeps the canonical form. -/
theorem stepKeepsMemoryCanonical : Obligations.StepKeepsMemoryCanonical := by
  intro s t hs h
  rcases step_next h with rfl | ⟨l, w, q, u, _, _, hmove⟩ | ⟨q, hmove⟩
  · exact hs
  · exact hmove.ended.memOk (hmove.memOk hs)
  · exact hmove.memOk hs

/-! ### O54 -/

theorem ctlOk_raise {f : BlockFault} (hf : f.code ∈ raisedCodes) (pos : Nat) (u : State) : CtlOk (raise f pos u) := by
  have hcode : (BitVec.ofNat 32 f.code).toNat = f.code := by cases f <;> rfl
  refine ⟨show statusFaulted ∈ idleStatuses by decide, ?_⟩
  rw [if_pos (show (raise f pos u).status = 0b00110 from rfl), raise_errcode, hcode]
  exact hf

theorem ctlOk_finish {flags : Reg} (hflags : flags ∈ [0, statusSoftEnd, statusLimit]) {used : Nat} {u : State}
    (herr : u.errcode = 0 ∧ u.errpos = 0) : CtlOk (finish flags used u) := by
  have hstatus : statusFinished flags ∈ idleStatuses ∧ statusFinished flags ≠ 0b00110 := by
    simp only [List.mem_cons, List.not_mem_nil, or_false] at hflags
    rcases hflags with rfl | rfl | rfl <;> decide
  refine ⟨hstatus.1, ?_⟩
  rw [finish_status, if_neg hstatus.2]
  exact herr

/-- A turn or a start ends in a legal state where the results were clear and its running states are legal. -/
theorem Ended.ctlOk {l : Latch} {R : Work → Prop} {u t : State} (h : Ended l R u t)
    (herr : u.errcode = 0 ∧ u.errpos = 0) (hrun : ∀ w, R w → EngineCtlOk u (.run l w)) : CtlOk t := by
  cases h with
  | runs w hw =>
    obtain ⟨hstatus, hrest⟩ := hrun w hw
    refine ⟨⟨hstatus, hrest⟩, ?_⟩
    rw [if_neg (by simp [hstatus])]
    exact herr
  | raises f pos hf => exact ctlOk_raise hf pos u
  | finishes flags used hflags => exact ctlOk_finish hflags herr

/-- A running command has clear results (R101). -/
theorem CtlOk.running {s : State} {l : Latch} {w : Work} (h : CtlOk s) (he : s.engine = .run l w) :
    EngineCtlOk s (.run l w) ∧ s.errcode = 0 ∧ s.errpos = 0 := by
  obtain ⟨hctl, herr⟩ := h
  rw [he] at hctl
  rw [if_neg (by simp [hctl.1])] at herr
  exact ⟨hctl, herr⟩

/-- While the host owns the block the engine is idle. -/
theorem CtlOk.idle_of_hostOwns {s : State} (h : CtlOk s) (hown : hostOwns s = true) : s.engine = .idle := by
  cases he : s.engine with
  | idle => rfl
  | run l w =>
    obtain ⟨⟨hstatus, _⟩, _⟩ := h.running he
    simp [hostOwns, busy, hstatus] at hown

theorem EngineMove.ctlOk {l : Latch} {w : Work} {s u t : State} (h : EngineMove l w s u t) (he : s.engine = .run l w)
    (hs : CtlOk s) : CtlOk t := by
  obtain ⟨⟨hstatus, hdone, hlatch, hin, hcap, hwritten, hlen⟩, herr⟩ := hs.running he
  refine h.ended.ctlOk ?_ fun w' hw' => ⟨?_, ?_, ?_, hin, hcap, ?_, hw'.2 hlen (Nat.lt_of_le_of_lt hcap outCap_lt)⟩
  · exact (congrArg (fun v : State => v.errcode = 0 ∧ v.errpos = 0) h.frame :).symm ▸ herr
  · exact (congrArg State.status h.frame :).trans hstatus
  · exact (congrArg State.doneSeen h.frame :).trans hdone
  · exact hlatch.trans (congrArg latchOf h.frame :).symm
  · exact (congrArg State.inMem h.frame :) ▸ hwritten

theorem CommandMove.ctlOk {i : Instr} {s u t : State} (h : CommandMove i s u t) : CtlOk t := by
  refine h.ended.ctlOk ?_ fun w hw => ?_
  · exact ⟨(congrArg State.errcode h.frame :), (congrArg State.errpos h.frame :)⟩
  · obtain ⟨hin, hcap⟩ := (operandsFit_iff _).1 hw.fits
    refine ⟨?_, ?_, ?_, hin, hcap, ?_, hw.len_le⟩
    · exact (congrArg State.status h.frame :)
    · exact (congrArg State.doneSeen h.frame :)
    · exact (congrArg latchOf h.frame :).symm
    · exact (congrArg State.inMem h.frame :) ▸ (regionWritten_iff s _).1 hw.written

/-- Of an idle engine the control invariant reads STATUS, ERRCODE and ERRPOS alone. -/
theorem CtlOk.of_idle {s t : State} (hs : CtlOk s) (he : s.engine = .idle) (het : t.engine = .idle)
    (hstatus : t.status = s.status) (hcode : t.errcode = s.errcode) (hpos : t.errpos = s.errpos) : CtlOk t := by
  obtain ⟨hctl, herr⟩ := hs
  rw [he] at hctl
  rw [CtlOk, het, EngineCtlOk, hstatus, hcode, hpos]
  exact ⟨hctl, herr⟩

/-- A read cannot take the block from a running command: STATUS does not show DONE yet (R12, R48). -/
theorem CtlOk.reads {s : State} (hs : CtlOk s) (rs : List Reg) {d : Bool}
    (hd : d = true → s.doneSeen = true ∨ doneBit s = true) : CtlOk { s with reads := rs, doneSeen := d } := by
  cases he : s.engine with
  | idle => exact hs.of_idle he rfl rfl rfl rfl
  | run l w =>
    obtain ⟨⟨hstatus, hdone, hrest⟩, _⟩ := hs.running he
    have hd' : d = false := by
      cases d with
      | false => rfl
      | true => simp [hdone, doneBit, hstatus] at hd
    exact ⟨⟨hstatus, hd', hrest⟩, hs.2⟩

theorem HostMove.ctlOk {s t : State} (h : HostMove s t) (hs : CtlOk s) : CtlOk t := by
  cases h with
  | ignored => exact hs
  | reads rs d hd => exact hs.reads rs hd
  | operand r v hown =>
    have he := hs.idle_of_hostOwns hown
    unfold writeOperand
    split <;> exact hs.of_idle he he rfl rfl rfl
  | writeIn a v hown => exact hs.of_idle (hs.idle_of_hostOwns hown) (hs.idle_of_hostOwns hown) rfl rfl rfl
  | writeSit a v hown => exact hs.of_idle (hs.idle_of_hostOwns hown) (hs.idle_of_hostOwns hown) rfl rfl rfl
  | command i u t _ hmove => exact hmove.ctlOk
  | illegal c => exact ctlOk_raise (by decide) 0 _
  | reset => exact ⟨show (0 : Word) ∈ idleStatuses by decide, rfl, rfl⟩

/-- Settles O54: a turn or a start that goes on has set nothing of the results, one that ends sets them legally, and
the host changes an operand only while the engine is idle. -/
theorem stepKeepsControl : Obligations.StepKeepsControl := by
  intro s t hs h
  rcases step_next h with rfl | ⟨l, w, q, u, he, _, hmove⟩ | ⟨q, hmove⟩
  · exact hs
  · exact hmove.ctlOk he hs
  · exact hmove.ctlOk hs

end Sys2Proof.Machine

/-! # The host's accesses -/

namespace Sys2Proof.Machine

/-- An access with no delay left is the step. -/
theorem step_access {s : State} {op : HostOp} {rest : List HostEvent}
    (hh : s.host = { delay := 0, op := op } :: rest) : step s = runTurn (hostTurn op (s.setHost rest)) :=
  step_host hh (.inr rfl)

@[simp] theorem hostOwns_setHost (s : State) (h : List HostEvent) : hostOwns (s.setHost h) = hostOwns s := rfl

/-- An access inside its aperture gives the state it leaves. -/
theorem inAperture_there {there : Bool} (h : there = true) (t : State) : inAperture there t = .own (.next t) :=
  if_pos h

/-- One outside it stops the machine (log 10). -/
theorem inAperture_gone {there : Bool} (h : there = false) (t : State) :
    inAperture there t = .own (.fault .hostOutsideAperture) := by
  rw [h]
  rfl

theorem fitsIn_succ_eq_true {a : Nat} (h : a < Config.inCap) : fitsIn (a + 1) = true := (fitsIn_iff _).2 h

theorem fitsIn_succ_eq_false {a : Nat} (h : Config.inCap ≤ a) : fitsIn (a + 1) = false :=
  Bool.eq_false_iff.2 fun hfits => Nat.not_lt.2 h ((fitsIn_iff _).1 hfits)

theorem fitsOut_succ_eq_true {a : Nat} (h : a < Config.outCap) : fitsOut (a + 1) = true := (fitsOut_iff _).2 h

theorem fitsOut_succ_eq_false {a : Nat} (h : Config.outCap ≤ a) : fitsOut (a + 1) = false :=
  Bool.eq_false_iff.2 fun hfits => Nat.not_lt.2 h ((fitsOut_iff _).1 hfits)

/-! ### O12 -/

/-- While the engine owns the block a write inside its aperture, of a register, IN or SIT, is ignored (R47). -/
theorem hostTurn_ignored {s : State} (hown : hostOwns s = false) {op : HostOp}
    (hop : (∃ r v, op = .writeReg r v) ∨ (∃ a v, op = .writeIn a v ∧ a + 1 ≤ Config.inCap) ∨
      (∃ a v, op = .writeSit a v ∧ a < 8192)) : hostTurn op s = .own (.next s) := by
  rcases hop with ⟨r, v, rfl⟩ | ⟨a, v, rfl, ha⟩ | ⟨a, v, rfl, ha⟩
  · exact hostTurn_write_ignored hown r v
  · simp [hostTurn, hown, inAperture_there (fitsIn_succ_eq_true ha)]
  · simp [hostTurn, hown, inAperture_there (decide_eq_true (p := a < Config.sitCap) ha)]

/-- Settles O12: the engine owns the block in both cases. -/
theorem hostWritesIgnoredWhileEngineOwns : Obligations.HostWritesIgnoredWhileEngineOwns := by
  intro s rest op hop hown hh
  have hown' : hostOwns (s.setHost rest) = false := hown.elim (fun h => hostOwns_busy h) (fun h => hostOwns_unseen h)
  rw [step_access hh, hostTurn_ignored hown' hop, runTurn_own]

/-! ### O49 -/

/-- A write of a register other than CMD, by a host that owns the block (R14). -/
theorem step_writeReg {s : State} {rest : List HostEvent} {r : Nat} {v : Reg} (hown : hostOwns s = true)
    (hr : r ≠ 0) (hh : s.host = { delay := 0, op := .writeReg r v } :: rest) :
    step s = .next (writeOperand (s.setHost rest) r v) := by
  rw [step_access hh, hostTurn_write (by simpa using hown), hostWriteReg, if_neg hr, runTurn_own]

theorem writeOperand_other {s : State} {r : Nat} {v : Reg} (hr : r ∈ [1, 2, 3, 7, 8, 11] ∨ 12 ≤ r) :
    writeOperand s r v = s := by
  unfold writeOperand
  split
  case h_6 => rfl
  all_goals simp at hr

/-- A read of a register is always a step (R43). -/
theorem step_readReg {s : State} {rest : List HostEvent} {r : Nat}
    (hh : s.host = { delay := 0, op := .readReg r } :: rest) :
    step s = .next (hostReadReg r (s.setHost rest)) := by
  rw [step_access hh]
  rfl

/-- The register file as a list (R10). -/
theorem regValue_eq_getD (s : State) : ∀ r : Nat,
    regValue s r = ([s.cmd, s.status, s.errcode, s.errpos, s.srcOff, s.srcLen, s.dstCap, s.dstLen, s.srcUsed,
      s.arg0, s.arg1, s.tabInfo] : List Reg).getD r 0
  | 0 | 1 | 2 | 3 | 4 | 5 | 6 | 7 | 8 | 9 | 10 | 11 | _ + 12 => rfl

theorem hostReadReg_reads {s : State} {r : Nat} (h : (r ≠ 7 ∧ r ≠ 8) ∨ s.doneSeen = true) :
    (hostReadReg r s).reads = s.reads ++ [regValue s r] := by
  have hseen : ¬ ((r = 7 ∨ r = 8) ∧ s.doneSeen = false) := by
    rintro ⟨hr, hd⟩
    simp [hd] at h
    omega
  unfold hostReadReg
  rw [if_neg hseen]
  split
  case isTrue hr =>
    subst hr
    rfl
  · rfl

/-- A read of a register changes what the host has seen, and nothing else (R43). -/
theorem hostReadReg_frame (r : Nat) (s : State) :
    hostReadReg r s =
      { s with reads := (hostReadReg r s).reads, doneSeen := (hostReadReg r s).doneSeen } := by
  unfold hostReadReg
  split
  · rfl
  · split <;> rfl

/-- Settles O49: a write is `writeOperand`, a read is `hostReadReg`, whatever the number. -/
theorem hostRegisterAccesses : Obligations.HostRegisterAccesses := by
  intro s rest r
  refine ⟨fun v hfree hseen hh => ?_, fun hh => ⟨fun hr => ?_, fun hr => ?_, ?_⟩⟩
  · have hwrite := step_writeReg ((hostOwns_iff s).2 ⟨hfree, hseen⟩) (r := r) (v := v) (rest := rest)
    refine ⟨?_, ?_, ?_, ?_, ?_, ?_⟩
    · rintro rfl
      exact hwrite (by decide) hh
    · rintro rfl
      exact hwrite (by decide) hh
    · rintro rfl
      exact hwrite (by decide) hh
    · rintro rfl
      exact hwrite (by decide) hh
    · rintro rfl
      exact hwrite (by decide) hh
    · intro hr
      have hne : r ≠ 0 := by
        rintro rfl
        simp at hr
      rw [hwrite hne hh, writeOperand_other hr]
  · refine ⟨_, step_readReg hh, ?_⟩
    rw [hostReadReg_reads (by simpa using hr), regValue_eq_getD]
    rfl
  · subst hr
    exact ⟨_, step_readReg hh, rfl⟩
  · have hframe := hostReadReg_frame r (s.setHost rest)
    exact ⟨_, step_readReg hh, (congrArg State.engine hframe :), (congrArg State.inMem hframe :),
      (congrArg State.outMem hframe :), (congrArg State.sit hframe :), (congrArg State.host hframe :),
      fun q => (congrArg (fun t => regValue t q) hframe :)⟩

/-! ### O50 -/

/-- Settles O50: inside the aperture an owning host's write is one `Mem.write`. -/
theorem hostMemoryWrites : Obligations.HostMemoryWrites := by
  intro s rest a hfree hseen
  have hown : hostOwns (s.setHost rest) = true := (hostOwns_iff s).2 ⟨hfree, hseen⟩
  refine ⟨fun v ha hh => ?_, fun v ha hh => ?_⟩
  · have hstep : step s = .next { s.setHost rest with inMem := Mem.write s.inMem a v } := by
      rw [step_access hh, hostTurn, inAperture_there (fitsIn_succ_eq_true ha), if_pos hown]
      rfl
    exact ⟨_, hstep, read_write_same _ _ _, fun b hb => read_write_other _ _ hb, rfl⟩
  · have hstep : step s = .next (hostWriteSit a v (s.setHost rest)) := by
      rw [step_access hh, hostTurn, inAperture_there (decide_eq_true (p := a < Config.sitCap) ha), if_pos hown]
      rfl
    exact ⟨_, hstep, rfl, read_write_same _ _ _, fun b hb => read_write_other _ _ hb, rfl⟩

/-! ### O51 -/

theorem byteReg_eq (b : Byte) : byteReg b = b.setWidth 32 := rfl

theorem step_readIn {s : State} {rest : List HostEvent} {a : Nat}
    (hh : s.host = { delay := 0, op := .readIn a } :: rest) :
    step s = runTurn (inAperture (fitsIn (a + 1)) ((s.setHost rest).pushRead (byteReg (inByte s a)))) := by
  rw [step_access hh]
  rfl

theorem step_readSit {s : State} {rest : List HostEvent} {a : Nat}
    (hh : s.host = { delay := 0, op := .readSit a } :: rest) :
    step s = runTurn (inAperture (decide (a < Config.sitCap)) ((s.setHost rest).pushRead (sitWord s a))) := by
  rw [step_access hh, hostTurn, BitVec.setWidth_eq]
  rfl

theorem step_readOut {s : State} {rest : List HostEvent} {a : Nat}
    (hh : s.host = { delay := 0, op := .readOut a } :: rest) :
    step s = runTurn (inAperture (fitsOut (a + 1)) (hostReadOut a (s.setHost rest))) := by
  rw [step_access hh]
  rfl

/-- What a read of OUT returns, once DONE has been seen (R47). -/
theorem hostReadOut_seen {s : State} (h : s.doneSeen = true) (a : Nat) :
    hostReadOut a s = s.pushRead ((outByte s a).setWidth 32) := by
  rw [hostReadOut, if_pos h, byteReg_eq]

/-- Before that it is unspecified (log 2). -/
theorem hostReadOut_unseen {s : State} (h : s.doneSeen = false) (a : Nat) :
    hostReadOut a s = s.pushRead (((Config.unspecRead s.reads.length).setWidth 8).setWidth 32) := by
  rw [hostReadOut, if_neg (by simp [h]), byteReg_eq]

theorem outByte_below {s : State} {a : Nat} {b : Byte} (ha : a < s.dstLen.toNat)
    (hb : Mem.read s.outMem a = some b) : outByte s a = b := by
  rw [outByte, if_neg (Nat.not_le.2 ha), hb]
  rfl

theorem outByte_above {s : State} {a : Nat} (ha : s.dstLen.toNat ≤ a) :
    outByte s a = Config.unspecOut s.resets s.starts a := if_pos ha

/-- Settles O51: inside its aperture a read is one `pushRead`, outside it the stop. -/
theorem hostMemoryReads : Obligations.HostMemoryReads := by
  intro s rest a
  refine ⟨fun hh => ⟨?_, ?_⟩, fun hh => ⟨?_, ?_⟩, fun hh => ⟨?_, ?_, ?_, ?_⟩⟩
  · rintro b ha rfl
    rw [step_readIn hh, inAperture_there (fitsIn_succ_eq_true ha)]
    rfl
  · intro ha
    rw [step_readIn hh, inAperture_gone (fitsIn_succ_eq_false ha), runTurn_own]
  · rintro v ha rfl
    rw [step_readSit hh, inAperture_there (decide_eq_true (p := a < Config.sitCap) ha)]
    rfl
  · intro ha
    rw [step_readSit hh, inAperture_gone (decide_eq_false (p := a < Config.sitCap) (Nat.not_lt.2 ha)), runTurn_own]
  · intro b ha hseen _ hlen hb
    rw [step_readOut hh, inAperture_there (fitsOut_succ_eq_true ha), hostReadOut_seen (by simpa using hseen),
      outByte_below (by simpa using hlen) (by simpa using hb)]
    rfl
  · intro ha hseen hlen
    rw [step_readOut hh, inAperture_there (fitsOut_succ_eq_true ha), hostReadOut_seen (by simpa using hseen),
      outByte_above (by simpa using hlen)]
    rfl
  · intro ha hseen
    refine ⟨(Config.unspecRead s.reads.length).setWidth 8, ?_⟩
    rw [step_readOut hh, inAperture_there (fitsOut_succ_eq_true ha), hostReadOut_unseen (by simpa using hseen)]
    rfl
  · intro ha
    rw [step_readOut hh, inAperture_gone (fitsOut_succ_eq_false ha), runTurn_own]

end Sys2Proof.Machine

/-! # The working state -/

namespace Sys2Proof.Machine

/-! ## The invariant of the working state -/

/-- Of the state the invariants of the working states read DST_LEN and WIN alone. -/
theorem WorkOk.congr {s t : State} {l : Latch} {w : Work} (hlen : t.dstLen = s.dstLen) (hwin : t.win = s.win)
    (h : WorkOk s l w) : WorkOk t l w := by
  cases w with
  | lzssDec w =>
    have h : LzssDecOk s l w := h
    exact { h with written := hwin ▸ h.written, total_eq := hlen ▸ h.total_eq, len_le := hlen ▸ h.len_le }
  | lzssEnc w =>
    have h : LzssEncOk s l w := h
    exact { h with slot_le := hlen ▸ h.slot_le, len_le := hlen ▸ h.len_le }
  | _ => exact h

/-- The working state of the running command, if one runs, meets its family's invariant. -/
def WorkInv (s : State) : Prop := ∀ l w, s.engine = .run l w → WorkOk s l w

theorem workInv_of_idle {s : State} (h : s.engine = .idle) : WorkInv s := fun l w he => by simp [h] at he

theorem workInv_setRun {u : State} {l : Latch} {w : Work} (h : WorkOk u l w) : WorkInv (u.setRun l w) := by
  intro l' w' he
  cases he
  exact WorkOk.congr (s := u) rfl rfl h

theorem Ended.workInv {l : Latch} {R : Work → Prop} {u t : State} (h : Ended l R u t)
    (hR : ∀ w, R w → WorkOk u l w) : WorkInv t := by
  cases h with
  | runs w hw => exact workInv_setRun (hR w hw)
  | raises f pos _ => exact workInv_of_idle rfl
  | finishes flags used _ => exact workInv_of_idle rfl

/-! ### LZW_DEC -/

theorem lzwString_isSome_append {dict : List (List Byte)} {c : Nat} (h : (lzwString dict c).isSome = true)
    (es : List (List Byte)) : (lzwString (dict ++ es) c).isSome = true := by
  unfold lzwString at h ⊢
  split
  · rfl
  case isFalse hbyte =>
    rw [if_neg hbyte] at h
    split
    case isTrue hlow => simp [hlow] at h
    case isFalse hlow =>
      simp only [if_neg hlow, isSome_getElem?] at h ⊢
      exact Nat.lt_of_lt_of_le h (by simp)

theorem lzwString_ne_nil {dict : List (List Byte)} (hdict : ∀ e ∈ dict, e ≠ []) {c : Nat} {e : List Byte}
    (h : lzwString dict c = some e) : e ≠ [] := by
  unfold lzwString at h
  split at h
  · cases h
    exact List.cons_ne_nil _ _
  · split at h
    · cases h
    · exact hdict e (List.mem_of_getElem? h)

theorem lzwString_byte (dict : List (List Byte)) (b : Byte) : (lzwString dict b.toNat).isSome = true := by
  rw [lzwString, if_pos b.isLt]
  rfl

/-- A string that is output leaves the dictionary, or appends one string to one that is not full. -/
theorem lzwLearn_cases (w : LzwDecWork) (e : List Byte) :
    lzwLearn w e = w.dict ∨
      (lzwNext w.dict.length < 2 ^ w.maxW ∧ ∃ ps, lzwLearn w e = w.dict ++ [ps ++ e.take 1]) := by
  unfold lzwLearn
  split
  · exact .inl rfl
  · split
    · split
      · exact .inr ⟨‹_›, _, rfl⟩
      · exact .inl rfl
    · exact .inl rfl

theorem LzwDecOk.learn {l : Latch} {w : LzwDecWork} (h : LzwDecOk l w) {e : List Byte} (he : e ≠ []) {c : Nat}
    (hc : (lzwString (lzwLearn w e) c).isSome = true) :
    LzwDecOk l { w with dict := lzwLearn w e, prev := some c } := by
  have hprev : ∀ c', some c = some c' → (lzwString (lzwLearn w e) c').isSome = true := by
    rintro c' ⟨⟩
    exact hc
  rcases lzwLearn_cases w e with heq | ⟨hroom, ps, heq⟩
  · exact { h with
      next_le := by simpa [heq] using h.next_le
      strings := by simpa [heq] using h.strings
      noPrev := nofun
      prev_str := hprev }
  · exact { h with
      next_le := by
        rw [heq, List.length_append]
        exact hroom
      strings := by
        intro e' he'
        rcases List.mem_append.1 (heq ▸ he') with he' | he'
        · exact h.strings e' he'
        · rw [List.mem_singleton.1 he']
          simp [he]
      noPrev := nofun
      prev_str := hprev }

theorem lzwOutput_keeps {l : Latch} {w : LzwDecWork} (hok : LzwDecOk l w) {e : List Byte} (he : e ≠ []) {c : Nat}
    (hc : (lzwString (lzwLearn w e) c).isSome = true) {s t : State} (h : lzwOutput e c l w s = .next t) :
    WorkInv t := by
  obtain ⟨cs, _, hended⟩ := lzwOutput_next h
  exact hended.workInv fun _ hw => hw ▸ hok.learn he hc

/-- A code that had a string keeps one. -/
theorem lzwLearn_isSome {w : LzwDecWork} {e : List Byte} {c : Nat} (h : (lzwString w.dict c).isSome = true) :
    (lzwString (lzwLearn w e) c).isSome = true := by
  rcases lzwLearn_cases w e with heq | ⟨_, ps, heq⟩
  · rwa [heq]
  · rw [heq]
    exact lzwString_isSome_append h _

/-- The code a KWK names is the one its own string is assigned (R168). -/
theorem lzwLearn_kwk {w : LzwDecWork} {k : Nat} {ps : List Byte} (hk : k = lzwNext w.dict.length)
    (hroom : k < 2 ^ w.maxW) (hps : w.prev.bind (lzwString w.dict) = some ps) (e : List Byte) :
    (lzwString (lzwLearn w e) k).isSome = true := by
  obtain ⟨pc, hpc, hstr⟩ := Option.bind_eq_some_iff.1 hps
  rw [lzwLearn_some hpc hstr (hk ▸ hroom), hk, lzwString, lzwNext, if_neg (by simp [Config.lzwFirst]; omega),
    if_neg (by omega)]
  simp

theorem lzwToken_keeps {i : Instr} {c : Nat} (hi : encode i = .lzw c) {s t : State} {l : Latch} {w : LzwDecWork}
    (hok : LzwDecOk l w) (hrun : s.engine = .run l (.lzwDec w)) (h : exec i s = .next t) : WorkInv t := by
  have hwith : ∀ {k}, withLzwDec s k = .next t → k l w = .next t :=
    fun h => (withLzwDec_run hrun _).symm.trans h
  cases i with
  | lzwByte b => exact lzwOutput_keeps hok (List.cons_ne_nil _ _) (lzwString_byte _ b) (hwith h)
  | lzwClr =>
    cases hwith h
    exact workInv_setRun (w := .lzwDec _) { hok with
      w_ge := Nat.le_refl 9
      w_le := Nat.le_trans hok.w_ge hok.w_le
      next_le := Nat.le_trans (Nat.le_add_right 257 _) hok.next_le
      strings := nofun
      noPrev := fun _ => rfl
      prev_str := nofun }
  | lzwEntry k =>
    have h := hwith h
    split at h
    · split at h
      case h_1 e he =>
        exact lzwOutput_keeps hok (lzwString_ne_nil hok.strings he) (lzwLearn_isSome (by simp [he])) h
      case h_2 => cases h
    · cases h
  | lzwKwk k =>
    have h := hwith h
    split at h
    case isTrue hk =>
      split at h
      case h_1 ps hps =>
        obtain ⟨pc, _, hstr⟩ := Option.bind_eq_some_iff.1 hps
        have hne : ps ++ ps.take 1 ≠ [] := by simp [lzwString_ne_nil hok.strings hstr]
        exact lzwOutput_keeps hok hne (lzwLearn_kwk hk.1 hk.2 hps _) h
      case h_2 => cases h
    case isFalse => cases h
  | _ => cases hi

/-- The width test without early change (R163, D23). -/
theorem lzwWiden_eq (size w maxW : Nat) :
    lzwWiden size w maxW = if 2 ^ w < size ∧ w < maxW then w + 1 else w := by
  simp [lzwWiden, Config.lzwEarlyChange]

theorem lzwWiden_bounds {size w maxW : Nat} (h : w ≤ maxW) :
    w ≤ lzwWiden size w maxW ∧ lzwWiden size w maxW ≤ maxW := by
  rw [lzwWiden_eq]
  split <;> omega

theorem lzwDecTurn_keeps {l : Latch} {w : LzwDecWork} (hok : LzwDecOk l w) {s t : State}
    (h : runTurn (lzwDecTurn l w s) = .next t) : WorkInv t := by
  unfold lzwDecTurn at h
  simp only at h
  split at h
  · cases h
    exact workInv_of_idle rfl
  case isFalse hbits =>
    split at h
    · cases h
      exact workInv_of_idle rfl
    case h_2 i hi =>
      obtain ⟨c, hc⟩ := decodeLzw_encode hi
      obtain ⟨hge, hle⟩ := lzwWiden_bounds (size := if w.prev.isNone then lzwNext w.dict.length
        else lzwNext w.dict.length + 1) hok.w_le
      have hread : LzwDecOk l { w with p := w.p + lzwDecWidth w, w := lzwDecWidth w } :=
        { hok with
          w_ge := Nat.le_trans hok.w_ge hge
          w_le := hle
          p_le := Nat.le_of_not_lt hbits }
      exact lzwToken_keeps hc hread rfl h

/-! ### LZW_ENC -/

theorem packBytes_rest_lt : ∀ bits : List Bool, (packBytes bits).2.length < 8
  | _ :: _ :: _ :: _ :: _ :: _ :: _ :: _ :: rest => packBytes_rest_lt rest
  | [] | [_] | [_, _] | [_, _, _] | [_, _, _, _] | [_, _, _, _, _] | [_, _, _, _, _, _] | [_, _, _, _, _, _, _] => by
    simp [packBytes]

theorem lzwFind?_lt {dict : List (Nat × Byte)} {pc k : Nat} {c : Byte} (h : lzwFind? dict pc c = some k) :
    k < lzwNext dict.length ∧ k ≠ 256 := by
  obtain ⟨j, hj, rfl⟩ := Option.map_eq_some_iff.1 h
  have hlt := (List.findIdx?_eq_some_iff_findIdx_eq.1 hj).1
  simp only [lzwNext, Config.lzwFirst]
  omega

theorem byte_lt_lzwNext (c : Byte) (n : Nat) : c.toNat < lzwNext n ∧ c.toNat ≠ 256 := by
  have hc := c.isLt
  simp only [lzwNext, Config.lzwFirst]
  omega

/-- The width that is widened at `size` holds every code below `size` (R163, R164). -/
theorem le_two_pow_lzwWiden {size w maxW : Nat} (h : size ≤ 2 ^ w + 1) (hmax : size ≤ 2 ^ maxW) (hw : w ≤ maxW) :
    size ≤ 2 ^ lzwWiden size w maxW := by
  rw [lzwWiden_eq]
  split
  · have hpos := Nat.two_pow_pos w
    rw [Nat.pow_succ]
    omega
  case isFalse hnot =>
    rcases Nat.lt_or_eq_of_le hw with hlt | rfl
    · simp [hlt] at hnot
      exact hnot
    · exact hmax

theorem lzwEncByte_keeps {l : Latch} {w : LzwEncWork} (hok : LzwEncOk l w) (hi : w.i < l.n) (c : Byte) :
    LzwEncOk l (lzwEncByte w c).2 := by
  unfold lzwEncByte
  split
  · exact { hok with
      i_le := hi
      pre_lt := by
        rintro _ ⟨⟩
        exact byte_lt_lzwNext c _ }
  · split
    case h_1 k hk =>
      exact { hok with
        i_le := hi
        pre_lt := by
          rintro _ ⟨⟩
          exact lzwFind?_lt hk }
    case h_2 =>
      split
      case isTrue hroom =>
        obtain ⟨hge, hle⟩ := lzwWiden_bounds (size := lzwNext w.dict.length + 1) hok.w_le
        exact {
          w_ge := Nat.le_trans hok.w_ge hge
          w_le := hle
          max_le := hok.max_le
          next_le := by
            simpa [lzwNext, Nat.add_assoc] using
              le_two_pow_lzwWiden (Nat.succ_le_succ hok.next_le) hroom hok.w_le
          pre_lt := by
            rintro _ ⟨⟩
            exact byte_lt_lzwNext c _
          acc_lt := packBytes_rest_lt _
          i_le := hi }
      case isFalse =>
        exact {
          w_ge := Nat.le_refl 9
          w_le := Nat.le_trans hok.w_ge hok.w_le
          max_le := hok.max_le
          next_le := show 257 ≤ 2 ^ 9 by decide
          pre_lt := by
            rintro _ ⟨⟩
            exact byte_lt_lzwNext c _
          acc_lt := packBytes_rest_lt _
          i_le := hi }

theorem lzwEncTurn_keeps {l : Latch} {w : LzwEncWork} (hok : LzwEncOk l w) {s t : State}
    (h : lzwEncTurn l w s = .next t) : WorkInv t := by
  unfold lzwEncTurn at h
  split at h
  case isTrue hi =>
    obtain ⟨cs, _, hended⟩ := afterEmit_setRun h
    exact hended.workInv fun _ hw => hw ▸ lzwEncByte_keeps hok hi _
  case isFalse =>
    obtain ⟨cs, _, hended⟩ := afterEmit_finish (by decide) (fun _ => False) h
    exact hended.workInv fun _ hw => hw.elim

/-! ### WAVELET_INV -/

theorem wavHorizontalPass_length {coef y : List Word} {size t : Nat} (h : wavHorizontalPass coef size t = some y) :
    y.length = 2 * t * (2 * t) := by
  unfold wavHorizontalPass at h
  simp only at h
  split at h
  · cases h
    simp
  · cases h

theorem waveletTurn_keeps {l : Latch} {w : WaveletWork} (hok : WaveletOk l w) {s t : State}
    (h : waveletTurn l w s = .next t) : WorkInv t := by
  unfold waveletTurn at h
  split at h
  case h_1 y hy =>
    cases h
    obtain ⟨k, hk⟩ := hok.sizes
    have hlt := (hok.scratch y hy).2
    refine workInv_setRun (w := .wavelet _) { hok with
      t_pos := Nat.le_trans hok.t_pos (Nat.le_mul_of_pos_left _ Nat.two_pos)
      sizes := ?_
      loaded := ?_
      scratch := nofun }
    · cases k with
      | zero => omega
      | succ k => exact ⟨k, by rw [hk, Nat.pow_succ]; ring⟩
    · simpa [wavVerticalPass] using hok.loaded
  case h_2 hy =>
    split at h
    case isTrue hlt =>
      split at h
      · cases h
        exact workInv_of_idle rfl
      case h_2 y hpass =>
        cases h
        refine workInv_setRun (w := .wavelet _) { hok with scratch := ?_ }
        rintro _ ⟨⟩
        exact ⟨wavHorizontalPass_length hpass, hlt⟩
    case isFalse =>
      cases h
      exact workInv_of_idle rfl

/-! ### LZSS_ENC -/

theorem commonLength_le (xs ys : List Byte) : commonLength xs ys ≤ xs.length := by
  induction xs generalizing ys with
  | nil => simp [commonLength]
  | cons x xs ih =>
    cases ys with
    | nil => simp [commonLength]
    | cons y ys =>
      unfold commonLength
      split
      · exact Nat.succ_le_succ (ih ys)
      · exact Nat.zero_le _

theorem matchLength_le (d : List Byte) (pos dist maxlen : Nat) : matchLength d pos dist maxlen ≤ maxlen :=
  Nat.le_trans (commonLength_le _ _) (List.length_take_le _ _)

theorem searchFrom_le {d : List Byte} {pos maxlen k dist : Nat} {best : Nat × Nat} (h : best.1 ≤ maxlen) :
    (searchFrom d pos maxlen k dist best).1 ≤ maxlen := by
  induction k generalizing dist best with
  | zero => exact h
  | succ k ih =>
    refine ih ?_
    split
    · exact matchLength_le d pos dist maxlen
    · exact h

/-- A match stays inside the input, so the token does (R149, R151). -/
theorem lzssAdvance_le {d : List Byte} {pos : Nat} (h : pos < d.length) :
    pos + lzssAdvance (bestMatch d pos) ≤ d.length := by
  have hmatch : (bestMatch d pos).1 ≤ min Config.lzssMaxLen (d.length - pos) := searchFrom_le (Nat.zero_le _)
  unfold lzssAdvance
  split
  · exact h
  · omega

theorem lzssEncTurn_keeps {l : Latch} {w : LzssEncWork} {s t : State} (hok : LzssEncOk s l w)
    (h : lzssEncTurn l w s = .next t) : WorkInv t := by
  unfold lzssEncTurn at h
  split at h
  case isTrue hpos =>
    simp only at h
    split at h
    case h_1 e herr =>
      cases h
      obtain ⟨u, pos, _, rfl⟩ := lzssPutAll_error herr
      exact workInv_of_idle rfl
    case h_2 u w' hput =>
      cases h
      have hmove := lzssPutAll_ok hput
      have hadv := lzssAdvance_le (d := regionBytes s l) (pos := w.pos) (by simpa using hpos)
      refine workInv_setRun (w := .lzssEnc _) { hmove.keeps hok with pos_le := ?_ }
      simpa [hmove.pos] using hadv
  case isFalse =>
    split at h
    case h_1 e herr =>
      cases h
      obtain ⟨u, pos, _, rfl⟩ := lzssPutAll_error herr
      exact workInv_of_idle rfl
    case h_2 =>
      obtain ⟨cs, _, hended⟩ := afterEmit_finish (by decide) (fun _ => False) h
      exact hended.workInv fun _ hw => hw.elim

/-! ### LZSS_DEC -/

/-- Every cell of a store lies below address `n`. -/
def CellsBelow (n : Nat) (m : Memory) : Prop := ∀ c ∈ m, c.1 < n

theorem write_cellsBelow {n : Nat} {m : Memory} (h : CellsBelow n m) {a : Nat} (ha : a < n) (v : Byte) :
    CellsBelow n (Mem.write m a v) := by
  intro c hc
  rcases mem_write hc with rfl | hc
  · exact ha
  · exact h c hc

theorem winCopy_cellsBelow {n : Nat} {m : Memory} (h : CellsBelow n m) (dist : Nat) {len wp : Nat}
    (hle : wp + len ≤ n) : CellsBelow n (winCopy dist len wp m) := by
  induction len generalizing wp m with
  | zero => exact h
  | succ len ih => exact ih (write_cellsBelow h (by omega) _) (by omega)

theorem winShift_cellsBelow {n : Nat} {m : Memory} (h : CellsBelow n m) (amount : Nat) {k a : Nat}
    (hle : a + k ≤ n) : CellsBelow n (winShift amount k a m) := by
  induction k generalizing a m with
  | zero => exact h
  | succ k ih => exact ih (write_cellsBelow h (by omega) _) (by omega)

/-- LZSS_DEC between a token's window writes and its slide: `wp` may be as far beyond 0x4000 as one token takes it. -/
structure UnslidOk (s : State) (l : Latch) (w : LzssDecWork) : Prop where
  wp_le : w.wp ≤ 0x4100
  written : ∀ a < w.wp, (Mem.read s.win a).isSome = true
  total_eq : w.total = s.dstLen.toNat
  history : w.total = 0 ∨ 0x2000 < w.wp
  reader : ReaderOk l w
  cap_lt : l.cap < 2 ^ 32
  len_le : s.dstLen.toNat ≤ l.cap

theorem LzssDecOk.reader {s : State} {l : Latch} {w : LzssDecWork} (h : LzssDecOk s l w) : ReaderOk l w :=
  ⟨h.bitcnt_le, h.ip_ge, h.ip_le⟩

/-- The window writes of a token: `k` more bytes are written, at most 256. -/
theorem LzssDecOk.unslid {s : State} {l : Latch} {w : LzssDecWork} (h : LzssDecOk s l w) {m : Memory} {k : Nat}
    (hk : k ≤ 256) (hkeep : ∀ a < w.wp, Mem.read m a = Mem.read s.win a)
    (hnew : ∀ a, w.wp ≤ a ∧ a < w.wp + k → (Mem.read m a).isSome = true) :
    UnslidOk (s.setWin m) l { w with wp := w.wp + k } where
  wp_le := Nat.add_le_add h.wp_le hk
  written a ha := by
    by_cases hold : a < w.wp
    · rw [setWin_win, hkeep a hold]
      exact h.written a hold
    · exact hnew a ⟨Nat.le_of_not_lt hold, ha⟩
  total_eq := h.total_eq
  history := h.history.imp_right fun hlt => Nat.lt_add_right k hlt
  reader := ⟨h.bitcnt_le, h.ip_ge, h.ip_le⟩
  cap_lt := h.cap_lt
  len_le := h.len_le

theorem UnslidOk.slide {s t : State} {l : Latch} {w : LzssDecWork} (hok : UnslidOk s l w)
    (h : lzssSlide l w s = .next t) : WorkInv t := by
  obtain ⟨hwp, hwritten, htotal, hhist, ⟨hcnt, hge, hle⟩, hcap, hlen⟩ := hok
  rcases lzssSlide_next h with ⟨hflush, rfl⟩ | ⟨hflush, hfits, rfl⟩ | ⟨cs, _, rfl⟩
  · exact workInv_setRun (w := .lzssDec w) ⟨hflush, hwritten, htotal, hhist, hcnt, hge, hle, hcap, hlen⟩
  · have hfit := hfits hlen hcap
    have hput := putAll_dstLen (s := s) (winBytes s.win 0 Config.winSlide) (by omega)
    have hslid : (winBytes s.win 0 Config.winSlide).length = 0x2000 := by simp [winBytes, Config.winSlide]
    simp only [Config.winFlush, Config.winSlide] at *
    have hleft : w.wp - 0x2000 ≤ 0x4000 ∧ 0x2000 < w.wp - 0x2000 := by omega
    exact workInv_setRun (w := .lzssDec _) {
      wp_le := hleft.1
      written := fun a ha => by
        rw [setWin_win, winShift_read_inside _ (by decide) _ _ ⟨Nat.zero_le a, by simpa using ha⟩]
        rfl
      total_eq := by
        rw [setWin_dstLen, hput, hslid, htotal]
      history := .inr hleft.2
      bitcnt_le := hcnt
      ip_ge := hge
      ip_le := hle
      cap_lt := hcap
      len_le := by
        rwa [setWin_dstLen, hput] }
  · exact workInv_of_idle rfl

theorem UnslidOk.slide_cellsBelow {s t : State} {l : Latch} {w : LzssDecWork} (hok : UnslidOk s l w)
    (hcells : CellsBelow Config.winSize s.win) (h : lzssSlide l w s = .next t) : CellsBelow Config.winSize t.win := by
  rcases lzssSlide_next h with ⟨_, rfl⟩ | ⟨_, _, rfl⟩ | ⟨cs, _, rfl⟩
  · exact hcells
  · have hwp := hok.wp_le
    rw [setRun_win, setWin_win]
    exact winShift_cellsBelow hcells _ (by simp only [Config.winSize, Config.winSlide]; omega)
  · simpa using hcells

/-- The operands of a copying token that is in range (R64 to R67). -/
theorem wellFormed_copy {i : Instr} (hi : i.wellFormed = true) {len dist : Nat}
    (h : i = .lzssSref len dist ∨ i = .lzssLref len dist ∨ i = .lzssXref len dist) :
    len ≤ 256 ∧ 1 ≤ dist ∧ dist ≤ 0x2000 := by
  rcases h with rfl | rfl | rfl
  · have h := of_decide_eq_true hi
    simp only [Config.lzssShortMaxDist] at h
    omega
  · have h := of_decide_eq_true hi
    simp only [Config.lzssLookback] at h
    omega
  · have h := of_decide_eq_true hi
    simp only [Config.lzssLookback] at h
    omega

/-- What is left to do after the window writes of an LZSS token: the slide, or the command has ended. -/
def SlideOrEnd (s : State) (l : Latch) (t : State) : Prop :=
  (∃ m w, UnslidOk (s.setWin m) l w ∧ (CellsBelow Config.winSize s.win → CellsBelow Config.winSize m) ∧
    lzssSlide l w (s.setWin m) = .next t) ∨ (t.engine = .idle ∧ t.win = s.win)

theorem lzssCopy_slideOrEnd {s t : State} {l : Latch} {w : LzssDecWork} (hok : LzssDecOk s l w) {len dist : Nat}
    (hlen : len ≤ 256) (h : lzssCopy len dist l w s = .next t) : SlideOrEnd s l t := by
  rcases lzssCopy_next h with rfl | ⟨_, h⟩
  · exact .inr ⟨rfl, rfl⟩
  · have hwp := hok.wp_le
    exact .inl ⟨_, _, hok.unslid hlen (fun a ha => winCopy_read_outside _ _ _ _ (.inl ha))
      (fun a ha => winCopy_written _ _ _ _ ha),
      fun hcells => winCopy_cellsBelow hcells _ (by simp only [Config.winSize]; omega), h⟩

theorem lzssToken_slideOrEnd {i : Instr} (hi : IsLzssToken i) {s t : State} {l : Latch} {w : LzssDecWork}
    (hrun : s.engine = .run l (.lzssDec w)) (hok : LzssDecOk s l w) (h : exec i s = .next t) :
    SlideOrEnd s l t := by
  have hwith : ∀ {k}, withLzssDec s k = .next t → k l w = .next t :=
    fun h => (withLzssDec_run hrun _).symm.trans h
  obtain ⟨⟨us, hus⟩, hwf⟩ := hi
  cases i with
  | lzssLit v =>
    have hwp := hok.wp_le
    refine .inl ⟨_, _, hok.unslid (k := 1) (by decide) (fun a ha => read_write_other _ _ (by omega)) (fun a ha => ?_),
      fun hcells => write_cellsBelow hcells (by simp only [Config.winSize]; omega) _, hwith h⟩
    obtain rfl : a = w.wp := by omega
    rw [read_write_same]
    rfl
  | lzssSref len dist => exact lzssCopy_slideOrEnd hok (wellFormed_copy hwf (.inl rfl)).1 (hwith h)
  | lzssLref len dist => exact lzssCopy_slideOrEnd hok (wellFormed_copy hwf (.inr (.inl rfl))).1 (hwith h)
  | lzssXref len dist => exact lzssCopy_slideOrEnd hok (wellFormed_copy hwf (.inr (.inr rfl))).1 (hwith h)
  | lzssSeg off =>
    exact .inl ⟨s.win, _, hok.unslid (k := 0) (by decide) (fun _ _ => rfl) (fun a ha => by omega), id, hwith h⟩
  | lzssEnd off =>
    obtain ⟨cs, _, hended⟩ := lzssEnd_next (by decide) (fun _ => False) (hwith h)
    cases hended with
    | runs w hw => exact hw.elim
    | raises f pos _ => exact .inr ⟨rfl, putAll_win s cs⟩
    | finishes flags used _ => exact .inr ⟨rfl, putAll_win s cs⟩
  | _ => cases hus

/-- Reading a token's units keeps the invariant. -/
theorem LzssDecOk.read {s : State} {l : Latch} {w w' : LzssDecWork} (h : LzssDecOk s l w)
    (hmove : ReaderMove l w w') : LzssDecOk (s.setRun l (.lzssDec w')) l w' where
  wp_le := hmove.wp ▸ h.wp_le
  written := hmove.wp ▸ h.written
  total_eq := hmove.total ▸ h.total_eq
  history := hmove.wp ▸ hmove.total ▸ h.history
  bitcnt_le := (hmove.keeps h.reader).bitcnt_le
  ip_ge := (hmove.keeps h.reader).ip_ge
  ip_le := (hmove.keeps h.reader).ip_le
  cap_lt := h.cap_lt
  len_le := h.len_le

/-- A turn of LZSS_DEC is a token's window writes and its slide, or it ends the command and leaves WIN alone. -/
theorem lzssDecTurn_slideOrEnd {l : Latch} {w : LzssDecWork} {s t : State} (hok : LzssDecOk s l w)
    (h : runTurn (lzssDecTurn l w s) = .next t) : ∃ u, u.win = s.win ∧ SlideOrEnd u l t := by
  rcases lzssDecTurn_cases l w s with hcnt | ⟨ip, hcnt, hf⟩ | ⟨i, w', hcnt, hf⟩
  · rw [lzssDecTurn_soft hcnt] at h
    obtain ⟨cs, _, hended⟩ := lzssEnd_next (by decide) (fun _ => False) h
    cases hended with
    | runs w hw => exact hw.elim
    | raises f pos _ => exact ⟨s, rfl, .inr ⟨rfl, putAll_win s cs⟩⟩
    | finishes flags used _ => exact ⟨s, rfl, .inr ⟨rfl, putAll_win s cs⟩⟩
  · rw [lzssDecTurn_exhausted hcnt hf] at h
    cases h
    exact ⟨s, rfl, .inr ⟨rfl, rfl⟩⟩
  · rw [lzssDecTurn_token hcnt hf] at h
    obtain ⟨htok, hmove⟩ := lzssFetch_token hf
    exact ⟨s.setRun l (.lzssDec w'), rfl, lzssToken_slideOrEnd htok rfl (hok.read hmove) h⟩

theorem lzssDecTurn_keeps {l : Latch} {w : LzssDecWork} {s t : State} (hok : LzssDecOk s l w)
    (h : runTurn (lzssDecTurn l w s) = .next t) : WorkInv t := by
  obtain ⟨u, _, ⟨m, w', hunslid, _, hslide⟩ | ⟨hidle, _⟩⟩ := lzssDecTurn_slideOrEnd hok h
  · exact hunslid.slide hslide
  · exact workInv_of_idle hidle

theorem lzssDecTurn_cellsBelow {l : Latch} {w : LzssDecWork} {s t : State} (hok : LzssDecOk s l w)
    (hcells : CellsBelow Config.winSize s.win) (h : runTurn (lzssDecTurn l w s) = .next t) :
    CellsBelow Config.winSize t.win := by
  obtain ⟨u, hu, ⟨m, w', hunslid, hm, hslide⟩ | ⟨_, hwin⟩⟩ := lzssDecTurn_slideOrEnd hok h
  · exact hunslid.slide_cellsBelow (hm (hu ▸ hcells)) hslide
  · exact hwin ▸ hu ▸ hcells

/-! ### Every step -/

/-- A turn of the engine keeps the invariant of the working state it runs. -/
theorem engineTurn_keeps {l : Latch} {w : Work} {s t : State} (he : s.engine = .run l w) (hok : WorkOk s l w)
    (h : runTurn (engineTurn l w s) = .next t) : WorkInv t := by
  have hfree : w.command ∈ [Instr.rleDec, .rleEnc, .vlcBuild, .vlcDecode] → WorkInv t := by
    intro hw l' w' he'
    obtain ⟨u, hmove⟩ := engineTurn_moves he h
    obtain ⟨_, ⟨hcommand, _⟩, _⟩ := hmove.ended.of_engine he'
    rw [← hcommand] at hw
    cases w' with
    | rleDec _ | rleEnc _ | vlcBuild _ | vlcDecode _ => trivial
    | _ => simp [Work.command] at hw
  cases w with
  | lzssDec w => exact lzssDecTurn_keeps hok h
  | lzssEnc w => exact lzssEncTurn_keeps hok h
  | lzwDec w => exact lzwDecTurn_keeps hok h
  | lzwEnc w => exact lzwEncTurn_keeps hok h
  | wavelet w => exact waveletTurn_keeps hok h
  | _ => exact hfree (by simp [Work.command])

/-- The invariant of one command's working state. -/
def WorkInvOf (c : Instr) (s : State) : Prop := ∀ l w, s.engine = .run l w → w.command = c → WorkOk s l w

/-- A host access that starts no command leaves the engine, DST_LEN and WIN alone, or idles the engine. -/
theorem HostMove.work {s t : State} (h : HostMove s t) :
    (t.engine = s.engine ∧ t.dstLen = s.dstLen ∧ t.win = s.win) ∨ t.engine = .idle ∨
      ∃ i u, CommandMove i s u t := by
  cases h with
  | operand r v =>
    unfold writeOperand
    split <;> exact .inl ⟨rfl, rfl, rfl⟩
  | command i u t _ hmove => exact .inr (.inr ⟨i, u, hmove⟩)
  | illegal c => exact .inr (.inl rfl)
  | reset => exact .inr (.inl rfl)
  | _ => exact .inl ⟨rfl, rfl, rfl⟩

theorem HostMove.keeps_workInvOf {c : Instr} {s t : State} (h : HostMove s t) (hs : WorkInvOf c s) :
    WorkInvOf c t := by
  intro l w he hw
  rcases h.work with ⟨heng, hlen, hwin⟩ | hidle | ⟨i, u, hmove⟩
  · exact (hs l w (heng ▸ he) hw).congr hlen hwin
  · simp [hidle] at he
  · obtain ⟨rfl, hstart, rfl⟩ := hmove.ended.of_engine he
    exact (hstart.ok u.win).congr (s := u.setWin u.win) rfl rfl

/-- Every step keeps the invariant of every command's working state: a turn of the engine stays with its command. -/
theorem step_keeps_workInvOf {c : Instr} {s t : State} (hs : WorkInvOf c s) (h : step s = .next t) :
    WorkInvOf c t := by
  rcases step_next h with rfl | ⟨l, w, q, u, he, hturn, hmove⟩ | ⟨q, hmove⟩
  · exact hs
  · intro l' w' he' hw'
    obtain ⟨_, ⟨hcommand, _⟩, _⟩ := hmove.ended.of_engine he'
    have hok : WorkOk (s.setHost q) l w := WorkOk.congr (s := s) rfl rfl (hs l w he (hcommand.symm.trans hw'))
    exact engineTurn_keeps (s := s.setHost q) he hok hturn l' w' he'
  · refine hmove.keeps_workInvOf fun l w he hw => ?_
    exact WorkOk.congr (s := s) rfl rfl (hs l w he hw)

theorem workInvOf_lzssDec (s : State) :
    WorkInvOf .lzssDec s ↔ ∀ l w, s.engine = .run l (.lzssDec w) → LzssDecOk s l w := by
  refine ⟨fun h l w he => h l _ he rfl, fun h l w he hw => ?_⟩
  cases w with
  | lzssDec w => exact h l w he
  | _ => cases hw

theorem workInvOf_lzssEnc (s : State) : WorkInvOf .lzssEnc s ↔ LzssEncInv s := by
  refine ⟨fun h l w he => h l _ he rfl, fun h l w he hw => ?_⟩
  cases w with
  | lzssEnc w => exact h l w he
  | _ => cases hw

theorem workInvOf_lzw (s : State) : WorkInvOf .lzwDec s ∧ WorkInvOf .lzwEnc s ↔ LzwInv s := by
  refine ⟨fun ⟨hdec, henc⟩ => ⟨fun l w he => hdec l _ he rfl, fun l w he => henc l _ he rfl⟩,
    fun ⟨hdec, henc⟩ => ⟨fun l w he hw => ?_, fun l w he hw => ?_⟩⟩
  · cases w with
    | lzwDec w => exact hdec l w he
    | _ => cases hw
  · cases w with
    | lzwEnc w => exact henc l w he
    | _ => cases hw

theorem workInvOf_wavelet (s : State) : WorkInvOf .waveletInv s ↔ WaveletInv s := by
  refine ⟨fun h l w he => h l _ he rfl, fun h l w he hw => ?_⟩
  cases w with
  | wavelet w => exact h l w he
  | _ => cases hw

/-! ### O57 -/

/-- Settles O57: the three invariants are those of four commands' working states. -/
theorem stepKeepsWorkingState : Obligations.StepKeepsWorkingState := by
  intro s t h
  refine ⟨fun hs => ?_, fun hs => ?_, fun hs => ?_⟩
  · exact (workInvOf_lzssEnc t).1 (step_keeps_workInvOf ((workInvOf_lzssEnc s).2 hs) h)
  · obtain ⟨hdec, henc⟩ := (workInvOf_lzw s).2 hs
    exact (workInvOf_lzw t).1 ⟨step_keeps_workInvOf hdec h, step_keeps_workInvOf henc h⟩
  · exact (workInvOf_wavelet t).1 (step_keeps_workInvOf ((workInvOf_wavelet s).2 hs) h)

/-! ### O56 -/

/-- Only LZSS_DEC and reset change WIN. -/
theorem HostMove.win {s t : State} (h : HostMove s t) : t.win = s.win ∨ t.win = [] := by
  cases h with
  | operand r v =>
    unfold writeOperand
    split <;> exact .inl rfl
  | command i u t _ hmove => exact .inl (hmove.keeps (f := State.win) fun _ => rfl)
  | reset => exact .inr rfl
  | _ => exact .inl rfl

theorem step_keeps_cellsBelow {s t : State} (hs : LzssDecInv s) (h : step s = .next t) :
    CellsBelow Config.winSize t.win := by
  obtain ⟨hcells, hok⟩ := hs
  rcases step_next h with rfl | ⟨l, w, q, u, he, hturn, hmove⟩ | ⟨q, hmove⟩
  · exact hcells
  · by_cases hw : w.command = .lzssDec
    · cases w with
      | lzssDec w =>
        have hok' : LzssDecOk (s.setHost q) l w := { hok l w he with }
        exact lzssDecTurn_cellsBelow hok' hcells hturn
      | _ => cases hw
    · have hwin : t.win = s.win := (congrArg State.win hmove.ended.sansEnd :).trans (hmove.win hw)
      exact hwin ▸ hcells
  · rcases hmove.win with hwin | hwin
    · exact hwin ▸ hcells
    · exact hwin ▸ nofun

/-- Settles O56: the cells by the writes of LZSS_DEC, the rest by its working state's invariant. -/
theorem stepKeepsWindow : Obligations.StepKeepsWindow := by
  intro s t hs h
  exact ⟨step_keeps_cellsBelow hs h,
    (workInvOf_lzssDec t).1 (step_keeps_workInvOf ((workInvOf_lzssDec s).2 hs.2) h)⟩

end Sys2Proof.Machine

/-! # What an earlier command left in WIN -/

namespace Sys2Proof.Machine

/-! ## What does not read WIN

Every meaning but that of an LZSS_DEC token commutes with replacing WIN. -/

/-- The outcome with WIN replaced in a next state. -/
def withWin (m : Memory) : Out → Out
  | .next t => .next (t.setWin m)
  | .fault r => .fault r
  | .refused r => .refused r

theorem ite_withWin {c : Prop} [Decidable c] {m : Memory} {o o' p p' : Out} (ho : o' = withWin m o)
    (hp : p' = withWin m p) : (if c then o' else p') = withWin m (if c then o else p) := by
  split
  · exact ho
  · exact hp

/-! ### Output -/

/-- Emitted or overflowed, with WIN replaced. -/
def emittedWithWin (m : Memory) : Except State State → Except State State
  | .ok t => .ok (t.setWin m)
  | .error e => .error (e.setWin m)

theorem emit_setWin (cap ip : Nat) (b : Byte) (s : State) (m : Memory) :
    emit cap ip b (s.setWin m) = emittedWithWin m (emit cap ip b s) := by
  by_cases hfull : s.dstLen.toNat = cap
  · rw [emit_full hfull, emit_full (by simpa using hfull)]
    rfl
  · rw [emit_room hfull, emit_room (by simpa using hfull)]
    rfl

theorem emitAll_setWin (cap ip : Nat) (bs : List Byte) (s : State) (m : Memory) :
    emitAll cap ip bs (s.setWin m) = emittedWithWin m (emitAll cap ip bs s) := by
  induction bs generalizing s with
  | nil => rfl
  | cons b bs ih =>
    rw [emitAll, emitAll, emit_setWin]
    cases emit cap ip b s with
    | ok t => exact ih t
    | error e => rfl

theorem afterEmit_setWin {cap ip : Nat} {bs : List Byte} {s : State} {m : Memory} {k k' : State → Out}
    (hk : ∀ u, k' (u.setWin m) = withWin m (k u)) :
    afterEmit (emitAll cap ip bs (s.setWin m)) k' = withWin m (afterEmit (emitAll cap ip bs s) k) := by
  rw [emitAll_setWin]
  cases emitAll cap ip bs s with
  | ok t => exact hk t
  | error e => rfl

@[simp] theorem inByte_setWin (s : State) (m : Memory) (a : Nat) : inByte (s.setWin m) a = inByte s a := rfl
@[simp] theorem regionBytes_setWin (s : State) (m : Memory) (l : Latch) :
    regionBytes (s.setWin m) l = regionBytes s l := rfl

@[simp] theorem inBytes_setWin (s : State) (m : Memory) (a n : Nat) : inBytes (s.setWin m) a n = inBytes s a n := rfl
@[simp] theorem inField_setWin (s : State) (m : Memory) (l : Latch) (k n : Nat) :
    inField (s.setWin m) l k n = inField s l k n := rfl
@[simp] theorem inBitList_setWin (s : State) (m : Memory) (l : Latch) (k n : Nat) :
    inBitList (s.setWin m) l k n = inBitList s l k n := rfl
@[simp] theorem tablesOf_setWin (s : State) (m : Memory) : tablesOf (s.setWin m) = tablesOf s := rfl

/-! ### Command starts -/

theorem startCommand_setWin {c : Reg} {s : State} {m : Memory} {k : State → Out}
    (hk : ∀ u, k (u.setWin m) = withWin m (k u)) :
    startCommand c (s.setWin m) k = withWin m (startCommand c s k) :=
  ite_withWin (c := busy s = true) rfl (hk (s.begin c))

theorem checkOperands_setWin {s : State} {m : Memory} {k : Latch → State → Out}
    (hk : ∀ l u, k l (u.setWin m) = withWin m (k l u)) :
    checkOperands (s.setWin m) k = withWin m (checkOperands s k) :=
  ite_withWin (c := operandsFit (latchOf s) = true) (hk (latchOf s) s) rfl

theorem startFamily_setWin {c : Reg} {s : State} {m : Memory} {k : Latch → State → Out}
    (hk : ∀ l u, k l (u.setWin m) = withWin m (k l u)) :
    startFamily c (s.setWin m) k = withWin m (startFamily c s k) :=
  startCommand_setWin fun _ => checkOperands_setWin hk

theorem requireInput_setWin {s : State} {m : Memory} {l : Latch} {o o' : Out} (ho : o' = withWin m o) :
    requireInput (s.setWin m) l o' = withWin m (requireInput s l o) :=
  ite_withWin (c := regionWritten s l = true) ho rfl

/-! ### LZSS_ENC -/

/-- Units put or overflowed, with WIN replaced. -/
def putWithWin (m : Memory) : Except State (State × LzssEncWork) → Except State (State × LzssEncWork)
  | .ok (t, w) => .ok (t.setWin m, w)
  | .error e => .error (e.setWin m)

theorem lzssReserve_setWin (l : Latch) (w : LzssEncWork) (s : State) (m : Memory) :
    lzssReserve l w (s.setWin m) = putWithWin m (lzssReserve l w s) := by
  rw [lzssReserve, lzssReserve, emitAll_setWin]
  cases emitAll l.cap (l.off + w.pos) (List.replicate Config.lzssCtlBytes 0) s <;> rfl

theorem lzssPut_setWin (l : Latch) (u : LzssUnit) (w : LzssEncWork) (s : State) (m : Memory) :
    lzssPut l u w (s.setWin m) = putWithWin m (lzssPut l u w s) := by
  cases u with
  | byte v =>
    rw [lzssPut, lzssPut, emit_setWin]
    cases emit l.cap (l.off + w.pos) v s <;> rfl
  | bit b =>
    rw [lzssPut_bit, lzssPut_bit, lzssRoll, lzssRoll]
    split
    · exact lzssReserve_setWin _ _ (lzssFillSlot _ s) m
    · rfl

theorem lzssPutAll_setWin (l : Latch) (us : List LzssUnit) (w : LzssEncWork) (s : State) (m : Memory) :
    lzssPutAll l us w (s.setWin m) = putWithWin m (lzssPutAll l us w s) := by
  induction us generalizing w s with
  | nil => rfl
  | cons u us ih =>
    rw [lzssPutAll, lzssPutAll, lzssPut_setWin]
    cases lzssPut l u w s with
    | ok r => exact ih r.2 r.1
    | error e => rfl

theorem lzssEncTurn_setWin (l : Latch) (w : LzssEncWork) (s : State) (m : Memory) :
    lzssEncTurn l w (s.setWin m) = withWin m (lzssEncTurn l w s) := by
  unfold lzssEncTurn
  refine ite_withWin ?_ ?_
  · simp only [lzssPutAll_setWin, inByte_setWin, regionBytes_setWin]
    generalize lzssPutAll l _ w s = r
    cases r with
    | ok r => rfl
    | error e => rfl
  · simp only [lzssPutAll_setWin]
    generalize lzssPutAll l _ w s = r
    cases r with
    | ok r => exact afterEmit_setWin (s := lzssFillSlot r.2 r.1) fun _ => rfl
    | error e => rfl

/-! ### Commands -/

theorem execCommand_setWin {i : Instr} (hi : isCommand i = true) (s : State) (m : Memory) :
    exec i (s.setWin m) = withWin m (exec i s) := by
  cases i with
  | lzssDec => exact startFamily_setWin fun l u => requireInput_setWin rfl
  | lzssEnc =>
    refine startFamily_setWin fun l u => requireInput_setWin ?_
    rw [lzssReserve_setWin]
    cases lzssReserve l { pos := 0, cw := 0, cc := 0, slot := 0 } u <;> rfl
  | lzwDec =>
    refine startFamily_setWin fun l u => ?_
    cases lzwMaxWidth? l with
    | none => rfl
    | some n => exact requireInput_setWin rfl
  | lzwEnc =>
    refine startFamily_setWin fun l u => ?_
    cases lzwMaxWidth? l with
    | none => rfl
    | some n => exact requireInput_setWin rfl
  | rleDec => exact startFamily_setWin fun l u => requireInput_setWin rfl
  | rleEnc => exact startFamily_setWin fun l u => requireInput_setWin rfl
  | waveletInv =>
    exact startFamily_setWin fun l u =>
      ite_withWin rfl (ite_withWin rfl (ite_withWin rfl (requireInput_setWin rfl)))
  | vlcBuild =>
    unfold exec execVlcBuild
    exact startCommand_setWin fun u => checkOperands_setWin (s := u.clearTab) fun l v =>
      ite_withWin rfl (ite_withWin rfl (requireInput_setWin (ite_withWin rfl rfl)))
  | vlcDecode =>
    exact startFamily_setWin fun l u => ite_withWin (c := tabValid u = false) rfl (requireInput_setWin rfl)
  | clear =>
    unfold exec execClear
    exact startCommand_setWin fun u => rfl
  | _ => cases hi

theorem illegalCommand_setWin (c : Reg) (s : State) (m : Memory) :
    illegalCommand c (s.setWin m) = withWin m (illegalCommand c s) := by
  unfold illegalCommand
  exact startCommand_setWin fun u => rfl

/-! ### Tokens of the other decoders -/

theorem withRleDec_setWin {s : State} {m : Memory} {k k' : Latch → RleDecWork → Out}
    (hk : ∀ l w, k' l w = withWin m (k l w)) : withRleDec (s.setWin m) k' = withWin m (withRleDec s k) := by
  rw [withRleDec, withRleDec, setWin_engine]
  split
  · exact hk _ _
  · rfl

theorem withLzwDec_setWin {s : State} {m : Memory} {k k' : Latch → LzwDecWork → Out}
    (hk : ∀ l w, k' l w = withWin m (k l w)) : withLzwDec (s.setWin m) k' = withWin m (withLzwDec s k) := by
  rw [withLzwDec, withLzwDec, setWin_engine]
  split
  · exact hk _ _
  · rfl

theorem withVlcDecode_setWin {i : Instr} {s : State} {m : Memory} {k k' : Latch → VlcDecodeWork → Out}
    (hk : ∀ l w, k' l w = withWin m (k l w)) : withVlcDecode i (s.setWin m) k' = withWin m (withVlcDecode i s k) := by
  rw [withVlcDecode, withVlcDecode, setWin_engine]
  split
  · exact ite_withWin (hk _ _) rfl
  · rfl

theorem rleOut_setWin (bs : List Byte) (last : Byte) (l : Latch) (w : RleDecWork) (s : State) (m : Memory) :
    rleOut bs last l w (s.setWin m) = withWin m (rleOut bs last l w s) :=
  afterEmit_setWin fun _ => rfl

theorem lzwOutput_setWin (e : List Byte) (c : Nat) (l : Latch) (w : LzwDecWork) (s : State) (m : Memory) :
    lzwOutput e c l w (s.setWin m) = withWin m (lzwOutput e c l w s) :=
  afterEmit_setWin fun _ => rfl

theorem vlcWord_setWin (v : Word) (len : Nat) (l : Latch) (w : VlcDecodeWork) (s : State) (m : Memory) :
    vlcWord v len l w (s.setWin m) = withWin m (vlcWord v len l w s) :=
  afterEmit_setWin fun _ => rfl

theorem execToken_setWin {i : Instr} (hi : isCommand i = false) (hlzss : ∀ us, encode i ≠ .lzss us) (s : State)
    (m : Memory) : exec i (s.setWin m) = withWin m (exec i s) := by
  cases i with
  | lzwByte b => exact withLzwDec_setWin fun l w => lzwOutput_setWin _ _ l w s m
  | lzwClr => exact withLzwDec_setWin fun l w => rfl
  | lzwEntry k =>
    refine withLzwDec_setWin fun l w => ite_withWin ?_ rfl
    cases lzwString w.dict k with
    | some e => exact lzwOutput_setWin e k l w s m
    | none => rfl
  | lzwKwk k =>
    refine withLzwDec_setWin fun l w => ite_withWin ?_ rfl
    cases w.prev.bind (lzwString w.dict) with
    | some ps => exact lzwOutput_setWin _ k l w s m
    | none => rfl
  | rleByte b => exact withRleDec_setWin fun l w => rleOut_setWin _ b l w s m
  | rleEsc => exact withRleDec_setWin fun l w => rleOut_setWin _ _ l w s m
  | rleRun n =>
    refine withRleDec_setWin fun l w => ?_
    cases w.last with
    | none => rfl
    | some b => exact rleOut_setWin _ b l w s m
  | vlcTerm path =>
    refine withVlcDecode_setWin fun l w => ?_
    rw [tablesOf_setWin]
    cases vlcEntry (tablesOf s) path with
    | none => rfl
    | some e => exact ite_withWin rfl (vlcWord_setWin _ _ l w s m)
  | vlcZrun path run => exact withVlcDecode_setWin fun l w => afterEmit_setWin fun _ => rfl
  | vlcDeep path =>
    refine withVlcDecode_setWin fun l w => ?_
    rw [tablesOf_setWin, setWin_sit]
    cases vlcDeepIndex (tablesOf s) path with
    | none => rfl
    | some idx =>
      simp only
      cases Mem.read s.sit idx with
      | none => rfl
      | some v => exact vlcWord_setWin v _ l w s m
  | lzssLit v => exact absurd rfl (hlzss _)
  | lzssSref len dist => exact absurd rfl (hlzss _)
  | lzssLref len dist => exact absurd rfl (hlzss _)
  | lzssXref len dist => exact absurd rfl (hlzss _)
  | lzssSeg off => exact absurd rfl (hlzss _)
  | lzssEnd off => exact absurd rfl (hlzss _)
  | _ => cases hi

/-! ### Turns of the engine -/

theorem rleDecTurn_setWin (l : Latch) (w : RleDecWork) (s : State) (m : Memory) :
    runTurn (rleDecTurn l w (s.setWin m)) = withWin m (runTurn (rleDecTurn l w s)) := by
  simp only [rleDecTurn, inBytes_setWin]
  split
  · rfl
  · cases hd : decodeRle (inBytes s w.ip (min 2 (regionEnd l - w.ip))) with
    | error e => rfl
    | ok r =>
      obtain ⟨cs, hcs⟩ := decodeRle_encode hd
      exact execToken_setWin (by rw [isCommand, hcs]) (by simp [hcs]) (s.setRun l _) m

theorem rleEncTurn_setWin (l : Latch) (w : RleEncWork) (s : State) (m : Memory) :
    rleEncTurn l w (s.setWin m) = withWin m (rleEncTurn l w s) :=
  ite_withWin (c := w.i < l.n) (afterEmit_setWin fun _ => rfl) rfl

theorem lzwDecTurn_setWin (l : Latch) (w : LzwDecWork) (s : State) (m : Memory) :
    runTurn (lzwDecTurn l w (s.setWin m)) = withWin m (runTurn (lzwDecTurn l w s)) := by
  simp only [lzwDecTurn, inField_setWin]
  split
  · rfl
  · cases hd : decodeLzw (lzwCtxOf w) (inField s l w.p (lzwDecWidth w)) with
    | error e => rfl
    | ok i =>
      obtain ⟨c, hc⟩ := decodeLzw_encode hd
      exact execToken_setWin (by rw [isCommand, hc]) (by simp [hc]) (s.setRun l _) m

theorem lzwEncTurn_setWin (l : Latch) (w : LzwEncWork) (s : State) (m : Memory) :
    lzwEncTurn l w (s.setWin m) = withWin m (lzwEncTurn l w s) :=
  ite_withWin (c := w.i < l.n) (afterEmit_setWin fun _ => rfl) (afterEmit_setWin fun _ => rfl)

theorem waveletTurn_setWin (l : Latch) (w : WaveletWork) (s : State) (m : Memory) :
    waveletTurn l w (s.setWin m) = withWin m (waveletTurn l w s) := by
  unfold waveletTurn
  cases w.y with
  | some y => rfl
  | none =>
    refine ite_withWin ?_ rfl
    cases wavHorizontalPass w.coef w.size w.t <;> rfl

theorem vlcBuildTurn_setWin (l : Latch) (w : VlcBuildWork) (s : State) (m : Memory) :
    vlcBuildTurn l w (s.setWin m) = withWin m (vlcBuildTurn l w s) := by
  refine ite_withWin (c := s.tab1.length < w.cnt) rfl (ite_withWin (c := vlcChildrenOk s.tab1 w.s = false) rfl ?_)
  rw [setWin_tab1, setWin_sit]
  cases vlcDeriveTab2 s.tab1 w.s s.sit <;> rfl

theorem vlcDecodeTurn_setWin (l : Latch) (w : VlcDecodeWork) (s : State) (m : Memory) :
    runTurn (vlcDecodeTurn l w (s.setWin m)) = withWin m (runTurn (vlcDecodeTurn l w s)) := by
  simp only [vlcDecodeTurn, tablesOf_setWin, inBitList_setWin]
  split
  · rfl
  · split
    · rfl
    · cases hd : decodeVlc (tablesOf s) (inBitList s l w.p (regionBits l - w.p)) with
      | error e => cases e <;> rfl
      | ok r =>
        obtain ⟨path, hpath⟩ := decodeVlc_encode hd
        exact execToken_setWin (by rw [isCommand, hpath]) (by simp [hpath]) s m

/-- Of the decoders only LZSS_DEC's reads WIN. -/
theorem engineTurn_setWin {w : Work} (hw : w.command ≠ .lzssDec) (l : Latch) (s : State) (m : Memory) :
    runTurn (engineTurn l w (s.setWin m)) = withWin m (runTurn (engineTurn l w s)) := by
  cases w with
  | lzssDec w => exact absurd rfl hw
  | lzssEnc w => exact lzssEncTurn_setWin l w s m
  | lzwDec w => exact lzwDecTurn_setWin l w s m
  | lzwEnc w => exact lzwEncTurn_setWin l w s m
  | rleDec w => exact rleDecTurn_setWin l w s m
  | rleEnc w => exact rleEncTurn_setWin l w s m
  | wavelet w => exact waveletTurn_setWin l w s m
  | vlcBuild w => exact vlcBuildTurn_setWin l w s m
  | vlcDecode w => exact vlcDecodeTurn_setWin l w s m

/-! ### Host accesses -/

theorem inAperture_setWin {there : Bool} {m : Memory} {u u' : State} (hu : u' = u.setWin m) :
    runTurn (inAperture there u') = withWin m (runTurn (inAperture there u)) := by
  cases there with
  | true => exact congrArg Host.Outcome.next hu
  | false => rfl

theorem ite_setWin {c : Prop} [Decidable c] {m : Memory} {u u' v v' : State} (hu : u' = u.setWin m)
    (hv : v' = v.setWin m) : (if c then u' else v') = (if c then u else v).setWin m := by
  split
  · exact hu
  · exact hv

theorem writeOperand_setWin (s : State) (r : Nat) (v : Reg) (m : Memory) :
    writeOperand (s.setWin m) r v = (writeOperand s r v).setWin m := by
  unfold writeOperand
  split <;> rfl

theorem hostReadReg_setWin (r : Nat) (s : State) (m : Memory) :
    hostReadReg r (s.setWin m) = (hostReadReg r s).setWin m :=
  ite_setWin (c := (r = 7 ∨ r = 8) ∧ s.doneSeen = false) rfl (ite_setWin (c := r = 1) rfl rfl)

theorem hostWriteReg_setWin (r : Nat) (v : Reg) (s : State) (m : Memory) :
    runTurn (hostWriteReg r v (s.setWin m)) = withWin m (runTurn (hostWriteReg r v s)) := by
  unfold hostWriteReg
  split
  · cases hd : decodeCommand v with
    | ok i => exact execCommand_setWin (decodeCommand_isCommand hd) s m
    | error e => exact illegalCommand_setWin v s m
  · exact congrArg Host.Outcome.next (writeOperand_setWin s r v m)

theorem hostTurn_setWin {op : HostOp} (hop : op ≠ .reset) (s : State) (m : Memory) :
    runTurn (hostTurn op (s.setWin m)) = withWin m (runTurn (hostTurn op s)) := by
  cases op with
  | writeReg r v =>
    have hown' : hostOwns (s.setWin m) = hostOwns s := rfl
    cases hown : hostOwns s with
    | true =>
      rw [hostTurn_write hown, hostTurn_write (hown'.trans hown)]
      exact hostWriteReg_setWin r v s m
    | false =>
      rw [hostTurn_write_ignored hown, hostTurn_write_ignored (hown'.trans hown)]
      rfl
  | readReg r => exact congrArg Host.Outcome.next (hostReadReg_setWin r s m)
  | writeIn a v => exact inAperture_setWin (ite_setWin (c := hostOwns s = true) rfl rfl)
  | readIn a => exact inAperture_setWin rfl
  | readOut a => exact inAperture_setWin rfl
  | writeSit a v => exact inAperture_setWin (ite_setWin (c := hostOwns s = true) rfl rfl)
  | readSit a => exact inAperture_setWin rfl
  | reset => exact absurd rfl hop

/-! ## What LZSS_DEC reads of WIN lies below `wp` -/

/-- Two windows that agree below address `n`. -/
def AgreeBelow (n : Nat) (m m' : Memory) : Prop := ∀ a < n, Mem.read m' a = Mem.read m a

theorem AgreeBelow.winByte {n : Nat} {m m' : Memory} (h : AgreeBelow n m m') {a : Nat} (ha : a < n) :
    winByte m' a = winByte m a := by
  rw [Machine.winByte, Machine.winByte, h a ha]

theorem AgreeBelow.winBytes {n k : Nat} {m m' : Memory} (h : AgreeBelow n m m') (hk : k ≤ n) :
    winBytes m' 0 k = winBytes m 0 k := by
  refine List.map_congr_left fun a ha => h.winByte ?_
  rw [Nat.zero_add]
  exact Nat.lt_of_lt_of_le (List.mem_range.1 ha) hk

theorem AgreeBelow.write {n : Nat} {m m' : Memory} (h : AgreeBelow n m m') (v : Byte) :
    AgreeBelow (n + 1) (Mem.write m n v) (Mem.write m' n v) := by
  intro a ha
  rw [read_write, read_write]
  split
  · rfl
  · exact h a (by omega)

/-- A copy from within the agreement extends it (R132). -/
theorem AgreeBelow.winCopy {dist len wp : Nat} {m m' : Memory} (h : AgreeBelow wp m m') (hpos : 1 ≤ dist)
    (hle : dist ≤ wp) : AgreeBelow (wp + len) (winCopy dist len wp m) (winCopy dist len wp m') := by
  induction len generalizing wp m m' with
  | zero => exact h
  | succ len ih =>
    rw [Machine.winCopy, Machine.winCopy, h.winByte (by omega), ← Nat.add_assoc, Nat.add_right_comm]
    exact ih (h.write _) (Nat.le_succ_of_le hle)

/-- A slide moves the agreement down with the bytes (R134). -/
theorem AgreeBelow.winShift {amount n : Nat} {m m' : Memory} (h : AgreeBelow (n + amount) m m') (hpos : 0 < amount) :
    AgreeBelow n (winShift amount n 0 m) (winShift amount n 0 m') := by
  intro a ha
  rw [winShift_read_inside _ hpos _ _ (by omega), winShift_read_inside _ hpos _ _ (by omega),
    h.winByte (by omega)]

theorem sameButStaleWin_idle {t : State} (h : t.engine = .idle) (m : Memory) : SameButStaleWin t (t.setWin m) :=
  ⟨rfl, fun l w he => by simp [h] at he⟩

theorem sameButStaleWin_setRun (u : State) (l : Latch) {w : LzssDecWork} {m m' : Memory}
    (h : AgreeBelow w.wp m m') :
    SameButStaleWin ((u.setWin m).setRun l (.lzssDec w)) ((u.setWin m').setRun l (.lzssDec w)) := by
  refine ⟨rfl, fun l' w' he => ?_⟩
  cases he
  exact h

/-- The outcome `o'` is a next state that differs from `t` in stale bytes of WIN alone. -/
def StaleNext (t : State) (o' : Out) : Prop := ∃ t', o' = .next t' ∧ SameButStaleWin t t'

theorem staleNext_idle {o : Out} {t : State} (h : o = .next t) (hidle : t.engine = .idle) (m : Memory) :
    StaleNext t (withWin m o) :=
  ⟨t.setWin m, by rw [h]; rfl, sameButStaleWin_idle hidle m⟩

theorem lzssEnd_stale {flags : Reg} (hflags : flags ∈ [0, statusSoftEnd, statusLimit]) {l : Latch} {w : LzssDecWork}
    {s t : State} {m : Memory} (hagree : AgreeBelow w.wp s.win m) (h : lzssEnd flags l w s = .next t) :
    StaleNext t (lzssEnd flags l w (s.setWin m)) := by
  have heq : lzssEnd flags l w (s.setWin m) = withWin m (lzssEnd flags l w s) := by
    rw [lzssEnd, setWin_win, hagree.winBytes (Nat.le_refl _)]
    exact afterEmit_setWin fun _ => rfl
  obtain ⟨cs, _, hended⟩ := lzssEnd_next hflags (fun _ => False) h
  have hidle : t.engine = .idle := by
    cases hended with
    | runs w hw => exact hw.elim
    | raises f pos _ => rfl
    | finishes fl used _ => rfl
  rw [heq]
  exact staleNext_idle h hidle m

theorem emitAll_ok_win {cap ip : Nat} {bs : List Byte} {s u : State} (h : emitAll cap ip bs s = .ok u) :
    u.win = s.win := by
  rcases emitAll_result cap ip bs s with ⟨_, heq⟩ | ⟨cs, _, _, heq⟩
  · rw [heq] at h
    cases h
    exact putAll_win s bs
  · rw [heq] at h
    cases h

theorem emitAll_error_idle {cap ip : Nat} {bs : List Byte} {s e : State} (h : emitAll cap ip bs s = .error e) :
    e.engine = .idle := by
  rcases emitAll_result cap ip bs s with ⟨_, heq⟩ | ⟨cs, _, _, heq⟩
  · rw [heq] at h
    cases h
  · rw [heq] at h
    cases h
    rfl

/-- A slide whose bytes went out. -/
theorem lzssSlide_emitted {l : Latch} {w : LzssDecWork} {s u : State} (hwp : Config.winFlush < w.wp)
    (h : emitAll l.cap w.ip (winBytes s.win 0 Config.winSlide) s = .ok u) :
    lzssSlide l w s = .next ((u.setWin (winShift Config.winSlide (w.wp - Config.winSlide) 0 u.win)).setRun l
      (.lzssDec { w with wp := w.wp - Config.winSlide, total := w.total + Config.winSlide })) := by
  rw [lzssSlide, if_pos hwp, h, afterEmit]

/-- A slide whose bytes did not all fit. -/
theorem lzssSlide_overflowed {l : Latch} {w : LzssDecWork} {s e : State} (hwp : Config.winFlush < w.wp)
    (h : emitAll l.cap w.ip (winBytes s.win 0 Config.winSlide) s = .error e) : lzssSlide l w s = .next e := by
  rw [lzssSlide, if_pos hwp, h, afterEmit]

theorem lzssSlide_stale {l : Latch} {w : LzssDecWork} {s t : State} {m : Memory}
    (hagree : AgreeBelow w.wp s.win m) (h : lzssSlide l w s = .next t) :
    StaleNext t (lzssSlide l w (s.setWin m)) := by
  by_cases hwp : w.wp ≤ Config.winFlush
  · rw [lzssSlide_stay hwp] at h ⊢
    obtain rfl := Host.Outcome.next.inj h
    exact ⟨_, rfl, sameButStaleWin_setRun s l hagree⟩
  have hflush := Nat.lt_of_not_le hwp
  have hslide : Config.winSlide ≤ w.wp := Nat.le_trans (by decide) (Nat.le_of_lt hflush)
  have hemit : emitAll l.cap w.ip (winBytes (s.setWin m).win 0 Config.winSlide) (s.setWin m) =
      emittedWithWin m (emitAll l.cap w.ip (winBytes s.win 0 Config.winSlide) s) := by
    rw [setWin_win, hagree.winBytes hslide, emitAll_setWin]
  cases heq : emitAll l.cap w.ip (winBytes s.win 0 Config.winSlide) s with
  | ok u =>
    rw [lzssSlide_emitted hflush heq] at h
    rw [lzssSlide_emitted hflush (hemit.trans (congrArg _ heq)), setWin_setWin, setWin_win]
    obtain rfl := Host.Outcome.next.inj h
    refine ⟨_, rfl, sameButStaleWin_setRun u l (AgreeBelow.winShift ?_ (by decide))⟩
    rwa [emitAll_ok_win heq, Nat.sub_add_cancel hslide]
  | error e =>
    rw [lzssSlide_overflowed hflush heq] at h
    rw [lzssSlide_overflowed hflush (hemit.trans (congrArg _ heq))]
    obtain rfl := Host.Outcome.next.inj h
    exact ⟨_, rfl, sameButStaleWin_idle (emitAll_error_idle heq) m⟩

/-- Every distance in range reaches a byte below `wp` (R135). -/
theorem LzssDecOk.dist_le_wp {s : State} {l : Latch} {w : LzssDecWork} (h : LzssDecOk s l w) {dist : Nat}
    (hdist : dist ≤ 0x2000) (hle : dist ≤ w.total + w.wp) : dist ≤ w.wp := by
  rcases h.history with htotal | hwp
  · omega
  · omega

theorem lzssCopy_stale {len dist : Nat} {l : Latch} {w : LzssDecWork} {s t : State} {m : Memory}
    (hok : LzssDecOk s l w) (hdist : 1 ≤ dist ∧ dist ≤ 0x2000) (hagree : AgreeBelow w.wp s.win m)
    (h : lzssCopy len dist l w s = .next t) : StaleNext t (lzssCopy len dist l w (s.setWin m)) := by
  by_cases hbad : w.total + w.wp < dist
  · rw [lzssCopy_bad hbad] at h ⊢
    cases h
    exact ⟨_, rfl, sameButStaleWin_idle rfl m⟩
  · have hle := Nat.le_of_not_lt hbad
    rw [lzssCopy_ok hle] at h ⊢
    exact lzssSlide_stale (s := s.setWin (winCopy dist len w.wp s.win))
      (hagree.winCopy hdist.1 (hok.dist_le_wp hdist.2 hle)) h

theorem lzssToken_stale {i : Instr} (hi : IsLzssToken i) {s t : State} {l : Latch} {w : LzssDecWork} {m : Memory}
    (hrun : s.engine = .run l (.lzssDec w)) (hok : LzssDecOk s l w) (hagree : AgreeBelow w.wp s.win m)
    (h : exec i s = .next t) : StaleNext t (exec i (s.setWin m)) := by
  have hrun' : (s.setWin m).engine = .run l (.lzssDec w) := hrun
  obtain ⟨⟨us, hus⟩, hwf⟩ := hi
  cases i with
  | lzssLit v =>
    simp only [exec, execLzssLit, withLzssDec_run hrun, withLzssDec_run hrun'] at h ⊢
    exact lzssSlide_stale (s := s.setWin (Mem.write s.win w.wp v)) (hagree.write v) h
  | lzssSref len dist =>
    simp only [exec, execLzssSref, withLzssDec_run hrun, withLzssDec_run hrun'] at h ⊢
    exact lzssCopy_stale hok (wellFormed_copy hwf (.inl rfl)).2 hagree h
  | lzssLref len dist =>
    simp only [exec, execLzssLref, withLzssDec_run hrun, withLzssDec_run hrun'] at h ⊢
    exact lzssCopy_stale hok (wellFormed_copy hwf (.inr (.inl rfl))).2 hagree h
  | lzssXref len dist =>
    simp only [exec, execLzssXref, withLzssDec_run hrun, withLzssDec_run hrun'] at h ⊢
    exact lzssCopy_stale hok (wellFormed_copy hwf (.inr (.inr rfl))).2 hagree h
  | lzssSeg off =>
    simp only [exec, execLzssSeg, withLzssDec_run hrun, withLzssDec_run hrun'] at h ⊢
    exact lzssSlide_stale hagree h
  | lzssEnd off =>
    simp only [exec, execLzssEnd, withLzssDec_run hrun, withLzssDec_run hrun'] at h ⊢
    exact lzssEnd_stale (by decide) hagree h
  | _ => cases hus

theorem lzssFetch_setWin (s : State) (m : Memory) (l : Latch) (w : LzssDecWork) :
    lzssFetch (s.setWin m) l w = lzssFetch s l w := by
  have hfrom : ∀ (fuel : Nat) (got : List LzssUnit) (w : LzssDecWork),
      lzssFetchFrom (s.setWin m) l fuel got w = lzssFetchFrom s l fuel got w := by
    intro fuel
    induction fuel with
    | zero => exact fun _ _ => rfl
    | succ fuel ih =>
      intro got w
      rw [lzssFetchFrom, lzssFetchFrom]
      cases lzssWant got with
      | token i => rfl
      | bad => rfl
      | bit => exact ite_congr (c := w.bitcnt = 0) rfl (fun _ => rfl) fun _ => ih _ _
      | byte => exact ite_congr rfl (fun _ => rfl) fun _ => ih _ _
  exact hfrom 6 [] w

theorem lzssDecTurn_stale {l : Latch} {w : LzssDecWork} {s t : State} {m : Memory} (hok : LzssDecOk s l w)
    (hagree : AgreeBelow w.wp s.win m) (h : runTurn (lzssDecTurn l w s) = .next t) :
    StaleNext t (runTurn (lzssDecTurn l w (s.setWin m))) := by
  have hfetch := lzssFetch_setWin s m l w
  rcases lzssDecTurn_cases l w s with hcnt | ⟨ip, hcnt, hf⟩ | ⟨i, w', hcnt, hf⟩
  · rw [lzssDecTurn_soft hcnt] at h ⊢
    exact lzssEnd_stale (by decide) hagree h
  · rw [lzssDecTurn_exhausted hcnt hf] at h
    rw [lzssDecTurn_exhausted hcnt (hfetch.trans hf)]
    cases h
    exact ⟨_, rfl, sameButStaleWin_idle rfl m⟩
  · rw [lzssDecTurn_token hcnt hf] at h
    rw [lzssDecTurn_token hcnt (hfetch.trans hf)]
    obtain ⟨htok, hmove⟩ := lzssFetch_token hf
    exact lzssToken_stale (s := s.setRun l (.lzssDec w')) htok rfl (hok.read hmove) (hmove.wp ▸ hagree) h

/-! ### O60 -/

/-- Whose move it is does not depend on WIN. -/
theorem step_cases_setWin (s : State) (m : Memory) :
    (step s = .next s ∧ step (s.setWin m) = .next (s.setWin m)) ∨
      (∃ l w q, s.engine = .run l w ∧ step s = runTurn (engineTurn l w (s.setHost q)) ∧
        step (s.setWin m) = runTurn (engineTurn l w ((s.setHost q).setWin m))) ∨
      ∃ op q, step s = runTurn (hostTurn op (s.setHost q)) ∧
        step (s.setWin m) = runTurn (hostTurn op ((s.setHost q).setWin m)) := by
  cases hh : s.host with
  | nil =>
    cases he : s.engine with
    | idle => exact .inl ⟨step_idle he hh, step_idle (s := s.setWin m) he hh⟩
    | run l w =>
      exact .inr (.inl ⟨l, w, s.host, rfl, step_engine he hh, step_engine (s := s.setWin m) he hh⟩)
  | cons e rest =>
    by_cases hd : running s = false ∨ e.delay = 0
    · exact .inr (.inr ⟨e.op, rest, step_host hh hd, step_host (s := s.setWin m) hh hd⟩)
    · obtain ⟨hr, hd⟩ := not_or.1 hd
      cases he : s.engine with
      | idle => simp [running, he] at hr
      | run l w =>
        exact .inr (.inl ⟨l, w, _, rfl, step_delayed he hh hd, step_delayed (s := s.setWin m) he hh hd⟩)

/-- A next state that has the other's WIN but for LZSS_DEC's stale bytes. -/
theorem staleNext_withWin {o : Out} {t : State} {m : Memory} (h : o = .next t)
    (hagree : ∀ l w, t.engine = .run l (.lzssDec w) → AgreeBelow w.wp t.win m) : StaleNext t (withWin m o) :=
  ⟨t.setWin m, by rw [h]; rfl, rfl, hagree⟩

/-- A host access leaves stale bytes stale: it leaves WIN and the engine, or idles it, or starts a command, whose `wp`
is 0. -/
theorem hostTurn_stale {op : HostOp} {s t : State} {m : Memory}
    (hagree : ∀ l w, s.engine = .run l (.lzssDec w) → AgreeBelow w.wp s.win m)
    (h : runTurn (hostTurn op s) = .next t) : StaleNext t (runTurn (hostTurn op (s.setWin m))) := by
  by_cases hop : op = .reset
  · subst hop
    cases h
    exact ⟨_, rfl, rfl, fun l w he => nomatch he⟩
  · rw [hostTurn_setWin hop]
    refine staleNext_withWin h fun l w he => ?_
    rcases (hostTurn_next h).work with ⟨heng, _, hwin⟩ | hidle | ⟨i, u, hmove⟩
    · exact hwin ▸ hagree l w (heng ▸ he)
    · simp [hidle] at he
    · obtain ⟨_, hstart, _⟩ := hmove.ended.of_engine he
      intro a ha
      rw [hstart.wp_eq_zero] at ha
      exact absurd ha (Nat.not_lt_zero a)

/-- Settles O60: LZSS_DEC reads WIN below `wp` alone, every other move does not read it, and a start has `wp` 0. -/
theorem staleWindowIsUnobservable : Obligations.StaleWindowIsUnobservable := by
  rintro s s' t ⟨_, hok⟩ ⟨hs', hagree⟩ h
  rw [hs']
  rcases step_cases_setWin s s'.win with ⟨heq, heq'⟩ | ⟨l, w, q, he, heq, heq'⟩ | ⟨op, q, heq, heq'⟩
  · rw [heq] at h
    cases h
    exact ⟨_, heq', rfl, hagree⟩
  · rw [heq] at h
    rw [heq']
    by_cases hw : w.command = .lzssDec
    · cases w with
      | lzssDec w =>
        have hok' : LzssDecOk (s.setHost q) l w := { hok l w he with }
        exact lzssDecTurn_stale hok' (hagree l w he) h
      | _ => cases hw
    · rw [engineTurn_setWin hw]
      obtain ⟨u, hmove⟩ := engineTurn_moves (s := s.setHost q) he h
      refine staleNext_withWin h fun l' w' he' => ?_
      obtain ⟨_, ⟨hcommand, _⟩, _⟩ := hmove.ended.of_engine he'
      exact absurd hcommand.symm hw
  · rw [heq] at h
    rw [heq']
    exact hostTurn_stale hagree h

end Sys2Proof.Machine

/-! PROOFS. The family of `20_memory.md`: which CMD values are commands, what a write of one and of any other value
does while the host owns the block, and what CLEAR does while the block is not busy. -/

/-! # Writes of CMD -/

namespace Sys2Proof.Machine

/-! ### O7 -/

/-- The decoder of CMD values is the inverse of the encoding (R60, R61). -/
theorem decodeCommand_eq_ok_iff (c : Reg) (i : Instr) : decodeCommand c = .ok i ↔ encode i = .command c := by
  constructor
  · intro h
    have hc : commandWord c.toNat = c := BitVec.eq_of_toNat_eq (by simp [commandWord])
    unfold decodeCommand at h
    split at h
    case h_11 => cases h
    all_goals
      next hval =>
        cases h
        rw [← hc, hval]
        rfl
  · intro h
    cases i <;> cases h <;> rfl

/-- A write of a command's value is a turn of that command (R100). -/
theorem hostWriteReg_command {c : Reg} {i : Instr} (hc : encode i = .command c) (s : State) :
    hostWriteReg 0 c s = .instr i s := by
  rw [hostWriteReg, if_pos rfl, (decodeCommand_eq_ok_iff c i).2 hc]

/-- A write of any other value is an illegal command (R61, R103). -/
theorem hostWriteReg_illegal {c : Reg} (hc : ∀ i, encode i ≠ .command c) (s : State) :
    hostWriteReg 0 c s = .own (illegalCommand c s) := by
  rw [hostWriteReg, if_pos rfl]
  cases hd : decodeCommand c with
  | ok i => exact absurd ((decodeCommand_eq_ok_iff c i).1 hd) (hc i)
  | error e => rfl

/-- A write of CMD takes effect in the step that makes it while the host owns the block (R47, R100; log 8). -/
theorem step_writeCommand {s : State} {rest : List HostEvent} {c : Reg} (hfree : busy s = false)
    (hseen : s.doneSeen = true) (hh : s.host = { delay := 0, op := .writeReg 0 c } :: rest) :
    step s = runTurn (hostWriteReg 0 c (s.setHost rest)) := by
  have hown : hostOwns (s.setHost rest) = true := (hostOwns_iff s).2 ⟨hfree, hseen⟩
  rw [step_access hh, hostTurn_write hown]

/-- Settles O7: the decoder inverts the encoding, and an owning host's write of CMD runs what it decodes to. -/
theorem commandWriteRunsTheCommand : Obligations.CommandWriteRunsTheCommand := by
  refine ⟨decodeCommand_eq_ok_iff, fun s rest i c hc hfree hseen hh => ?_⟩
  rw [step_writeCommand hfree hseen hh, hostWriteReg_command hc, runTurn_instr]

/-! ### O13 -/

/-- Settles O13: the write is no command's, so it begins (R101; log 13) and faults at once. -/
theorem illegalCommandFaults : Obligations.IllegalCommandFaults := by
  intro s rest c hc hfree hseen hh
  have hfree' : busy (s.setHost rest) = false := hfree
  rw [step_writeCommand hfree hseen hh, hostWriteReg_illegal hc, runTurn_own, illegalCommand,
    startCommand_free hfree']
  rfl

/-! ### O16 -/

/-- Settles O16: CLEAR begins (R101), clears TAB_INFO and finishes with no flag (R104). -/
theorem clearResult : Obligations.ClearResult := by
  intro s hfree
  rw [exec, execClear, startCommand_free hfree]
  rfl

end Sys2Proof.Machine

/-! PROOFS. The family of `30_encoding.md`: that each stream's decoder inverts the encoding, that LZSS_DEC's fetch reads
exactly the encodings of LZSS tokens, the classes of LZW codes, and the refusals of R303 and log 14. -/

/-! # Decoding what was encoded -/

namespace Sys2Proof.Machine

/-! ## LZSS tokens: the rows of R70 and the encoder -/

theorem lzssLongUnits_off13 (lo hi : Byte) :
    lzssLongUnits (lzssOff13 lo hi) (hi.toNat % 8) = [.bit false, .bit true, .byte lo, .byte hi] := by
  have hlo := lo.isLt
  have hlow : BitVec.ofNat 8 (lzssOff13 lo hi % 256) = lo :=
    BitVec.eq_of_toNat_eq (by rw [BitVec.toNat_ofNat, lzssOff13]; omega)
  have hhigh : BitVec.ofNat 8 (lzssOff13 lo hi / 256 * 8 + hi.toNat % 8) = hi :=
    BitVec.eq_of_toNat_eq (by rw [BitVec.toNat_ofNat, lzssOff13]; omega)
  rw [lzssLongUnits, hlow, hhigh]

theorem sub_lzssLongDist (lo hi : Byte) : 0x2000 - lzssLongDist lo hi = lzssOff13 lo hi := by
  have hoff := lzssOff13_lt lo hi
  rw [lzssLongDist]
  omega

/-- Every offset and length code stand in some two descriptor bytes (R65). -/
theorem exists_lzssOff13_eq {off lc : Nat} (hoff : off < 8192) (hlc : lc < 8) :
    ∃ lo hi : Byte, lzssOff13 lo hi = off ∧ hi.toNat % 8 = lc := by
  refine ⟨BitVec.ofNat 8 (off % 256), BitVec.ofNat 8 (off / 256 * 8 + lc), ?_, ?_⟩
  · simp only [lzssOff13, BitVec.toNat_ofNat]
    omega
  · rw [BitVec.toNat_ofNat]
    omega

theorem encode_lzssEscape {lo hi : Byte} (hlc : hi.toNat % 8 = 0) (e : Byte) :
    encode (lzssEscape lo hi e) = .lzss [.bit false, .bit true, .byte lo, .byte hi, .byte e] := by
  have hlong := lzssLongUnits_off13 lo hi
  rw [hlc] at hlong
  unfold lzssEscape
  split
  case isTrue he =>
    have hzero : e = 0 := BitVec.eq_of_toNat_eq he
    rw [encode, hlong, hzero]
    rfl
  case isFalse =>
    split
    case isTrue he =>
      have hone : e = 1 := BitVec.eq_of_toNat_eq he
      rw [encode, hlong, hone]
      rfl
    case isFalse =>
      rw [encode, sub_lzssLongDist, hlong, Nat.add_sub_cancel, BitVec.ofNat_toNat, BitVec.setWidth_eq]
      rfl

/-- The units read as a token are its encoding: R70's rows against R63 to R69. -/
theorem encode_of_lzssWant {us : List LzssUnit} {i : Instr} (h : lzssWant us = .token i) : encode i = .lzss us := by
  unfold lzssWant at h
  split at h
  case h_3 v =>
    cases h
    rfl
  case h_8 b1 b0 o =>
    cases h
    have ho := o.isLt
    have hdist : BitVec.ofNat 8 (0x100 - (0x100 - o.toNat)) = o :=
      BitVec.eq_of_toNat_eq (by rw [BitVec.toNat_ofNat]; omega)
    rw [encode, lzssShortUnits, hdist]
    cases b1 <;> cases b0 <;> rfl
  case h_11 lo hi =>
    split at h
    · cases h
    · cases h
      rw [encode, sub_lzssLongDist, Nat.add_sub_cancel, lzssLongUnits_off13]
  case h_12 lo hi e =>
    split at h
    case isTrue hlc =>
      cases h
      exact encode_lzssEscape hlc e
    case isFalse => cases h
  all_goals cases h

/-- A long descriptor with length code 0 is read as its escape byte says (R67 to R69). -/
theorem lzssWant_escape {off : Nat} (hoff : off < 8192) (e : Byte) :
    ∃ lo hi : Byte, lzssOff13 lo hi = off ∧
      lzssWant (lzssLongUnits off 0 ++ [.byte e]) = .token (lzssEscape lo hi e) := by
  obtain ⟨lo, hi, rfl, hlc⟩ := exists_lzssOff13_eq hoff (show 0 < 8 by decide)
  have hlong := lzssLongUnits_off13 lo hi
  rw [hlc] at hlong
  exact ⟨lo, hi, rfl, by rw [hlong]; exact if_pos hlc⟩

theorem lzssWant_of_encode {i : Instr} {us : List LzssUnit} (hwf : i.wellFormed = true) (henc : encode i = .lzss us) :
    lzssWant us = .token i := by
  cases i with
  | lzssLit v =>
    cases henc
    rfl
  | lzssSref len dist =>
    cases henc
    obtain ⟨hlen, hlen', hdist, hdist'⟩ := of_decide_eq_true hwf
    simp only [Config.lzssShortMaxDist] at hdist'
    have ho : (BitVec.ofNat 8 (0x100 - dist)).toNat = 0x100 - dist := Nat.mod_eq_of_lt (by omega)
    simp only [lzssShortUnits, lzssWant, ho, Nat.sub_sub_self hdist']
    interval_cases len <;> rfl
  | lzssLref len dist =>
    cases henc
    obtain ⟨hlen, hlen', hdist, hdist'⟩ := of_decide_eq_true hwf
    simp only [Config.lzssLookback] at hdist'
    obtain ⟨lo, hi, hoff, hlc⟩ := exists_lzssOff13_eq (show 0x2000 - dist < 8192 by omega) (show len - 2 < 8 by omega)
    rw [← hoff, ← hlc, lzssLongUnits_off13]
    have hd : lzssLongDist lo hi = dist := by rw [lzssLongDist, hoff]; omega
    simp only [lzssWant]
    rw [if_neg (by omega), hd, hlc, Nat.sub_add_cancel (by omega)]
  | lzssXref len dist =>
    cases henc
    obtain ⟨hlen, hlen', hdist, hdist'⟩ := of_decide_eq_true hwf
    simp only [Config.lzssLookback] at hdist'
    obtain ⟨lo, hi, hoff, hwant⟩ := lzssWant_escape (show 0x2000 - dist < 8192 by omega) (BitVec.ofNat 8 (len - 1))
    have he : (BitVec.ofNat 8 (len - 1)).toNat = len - 1 := Nat.mod_eq_of_lt (by omega)
    have hd : lzssLongDist lo hi = dist := by rw [lzssLongDist, hoff]; omega
    rw [hwant, lzssEscape, he, if_neg (by omega), if_neg (by omega), hd, Nat.sub_add_cancel (by omega)]
  | lzssSeg off =>
    cases henc
    obtain ⟨lo, hi, hoff, hwant⟩ := lzssWant_escape (of_decide_eq_true hwf) 1
    rw [hwant, ← hoff]
    rfl
  | lzssEnd off =>
    cases henc
    obtain ⟨lo, hi, hoff, hwant⟩ := lzssWant_escape (of_decide_eq_true hwf) 0
    rw [hwant, ← hoff]
    rfl
  | _ => cases henc

/-- The token space of R70 and the encoder are inverse: R63 to R69, said once. -/
theorem lzssWant_eq_token_iff (us : List LzssUnit) (i : Instr) :
    lzssWant us = .token i ↔ i.wellFormed = true ∧ encode i = .lzss us :=
  ⟨fun h => ⟨(lzssWant_isToken h).wf, encode_of_lzssWant h⟩, fun ⟨hwf, henc⟩ => lzssWant_of_encode hwf henc⟩

/-- What a reader wants that can take the unit. -/
def wantFor : LzssUnit → LzssWant
  | .bit _ => .bit
  | .byte _ => .byte

/-- Inside a token the reader always wants the unit that comes: no token begins another (R70). -/
theorem lzssWant_take {us : List LzssUnit} {i : Instr} (h : lzssWant us = .token i) {k : Nat}
    (hk : k < us.length) : lzssWant (us.take k) = wantFor us[k] := by
  unfold lzssWant at h
  split at h
  case h_3 | h_8 | h_11 =>
    simp only [List.length_cons, List.length_nil] at hk
    interval_cases k <;> rfl
  case h_12 lo hi e =>
    split at h
    case isTrue hlc =>
      rcases Nat.lt_or_eq_of_le (Nat.le_of_lt_succ hk) with hk | rfl
      · simp only [List.length_cons, List.length_nil] at hk
        interval_cases k <;> rfl
      · exact if_pos hlc
    case isFalse => cases h
  all_goals cases h

theorem lzssToken_length_le {us : List LzssUnit} {i : Instr} (h : lzssWant us = .token i) : us.length ≤ 5 := by
  unfold lzssWant at h
  split at h
  case h_13 => cases h
  all_goals simp

theorem lzssWant_of_cons {got us : List LzssUnit} {u : LzssUnit} {i : Instr}
    (h : lzssWant (got ++ u :: us) = .token i) : lzssWant got = wantFor u := by
  simpa using lzssWant_take h (k := got.length) (by simp)

/-! ## Each stream's decoder on an encoding -/

theorem decodeLzssFrom_token {got us : List LzssUnit} {i : Instr} (h : lzssWant (got ++ us) = .token i) :
    decodeLzssFrom got us = .ok (i, []) := by
  induction us generalizing got with
  | nil =>
    rw [List.append_nil] at h
    rw [decodeLzssFrom, h]
  | cons u us ih =>
    have hwant := lzssWant_of_cons h
    have hrest := ih (got := got ++ [u]) (by simpa using h)
    cases u <;> rw [decodeLzssFrom, hwant] <;> exact hrest

theorem decodeLzss_of_encode {i : Instr} {us : List LzssUnit} (hwf : i.wellFormed = true) (henc : encode i = .lzss us) :
    decodeLzss us = .ok (i, []) :=
  decodeLzssFrom_token (lzssWant_of_encode hwf henc)

theorem decodeLzw_byte (ctx : LzwCtx) {k : Nat} (h : k < 256) :
    decodeLzw ctx k = .ok (.lzwByte (BitVec.ofNat 8 k)) := if_pos h

theorem decodeLzw_entry {ctx : LzwCtx} {k : Nat} (hfirst : 257 ≤ k) (hk : k < ctx.next) :
    decodeLzw ctx k = .ok (.lzwEntry k) := by
  have hclear : k ≠ Config.lzwClear := Nat.ne_of_gt hfirst
  rw [decodeLzw, if_neg (by omega), if_neg hclear, if_pos hk]

/-- A code at or above the next free one is KWK or names nothing (R168, R169). -/
theorem decodeLzw_unassigned {ctx : LzwCtx} {k : Nat} (hfirst : 257 ≤ k) (hk : ctx.next ≤ k) :
    decodeLzw ctx k =
      if k = ctx.next ∧ ctx.havePrev = true ∧ ctx.next < 2 ^ ctx.maxW then .ok (.lzwKwk k)
      else .error .lzwBadCode := by
  have hclear : k ≠ Config.lzwClear := Nat.ne_of_gt hfirst
  rw [decodeLzw, if_neg (by omega), if_neg hclear, if_neg (by omega)]

theorem decodeLzw_of_encode {ctx : DecodeCtx} {i : Instr} {k : Nat} (hwf : i.wellFormed = true)
    (hfits : i.fits ctx = true) (henc : encode i = .lzw k) : decodeLzw ctx.lzw k = .ok i := by
  cases i with
  | lzwByte b =>
    cases henc
    rw [decodeLzw_byte _ b.isLt, BitVec.ofNat_toNat, BitVec.setWidth_eq]
  | lzwClr =>
    cases henc
    rfl
  | lzwEntry k =>
    cases henc
    exact decodeLzw_entry (of_decide_eq_true hwf).1 (of_decide_eq_true hfits)
  | lzwKwk k =>
    cases henc
    obtain ⟨hnext, hprev, hroom⟩ := of_decide_eq_true hfits
    rw [decodeLzw_unassigned (of_decide_eq_true hwf).1 hnext.ge, if_pos ⟨hnext, hprev, hnext ▸ hroom⟩]
  | _ => cases henc

theorem decodeRle_of_encode {i : Instr} {bs : List Byte} (hwf : i.wellFormed = true) (henc : encode i = .rle bs) :
    decodeRle bs = .ok (i, []) := by
  cases i with
  | rleByte b =>
    cases henc
    exact if_neg (of_decide_eq_true hwf)
  | rleEsc =>
    cases henc
    rfl
  | rleRun n =>
    cases henc
    obtain ⟨hpos, hmax⟩ := of_decide_eq_true hwf
    have hn : (BitVec.ofNat 8 n).toNat = n := Nat.mod_eq_of_lt (Nat.lt_succ_of_le hmax)
    rw [decodeRle, if_pos rfl]
    simp only [hn]
    rw [if_neg (by omega)]
  | _ => cases henc

/-- The TAB2 entry of a TERM that fits (R243). -/
theorem fits_vlcTerm {ctx : DecodeCtx} {path : List Bool} (h : (Instr.vlcTerm path).fits ctx = true) :
    ∃ e, vlcEntry ctx.vlc path = some e ∧ e.kind = .terminal ∧ e.len = path.length := by
  simp only [Instr.fits] at h
  split at h
  · exact ⟨_, ‹_›, of_decide_eq_true h⟩
  · cases h

/-- The TAB2 entry of a ZRUN that fits (R244). -/
theorem fits_vlcZrun {ctx : DecodeCtx} {path : List Bool} {run : Nat} (h : (Instr.vlcZrun path run).fits ctx = true) :
    ∃ e, vlcEntry ctx.vlc (path ++ natToBits run 10) = some e ∧ e.kind = .zerorun ∧ e.len = path.length := by
  simp only [Instr.fits] at h
  split at h
  · exact ⟨_, ‹_›, of_decide_eq_true h⟩
  · cases h

/-- The TAB2 entry of a DEEP that fits, and the leaf its walk of Tab1 ends in (R245). -/
theorem fits_vlcDeep {ctx : DecodeCtx} {path : List Bool} (h : (Instr.vlcDeep path).fits ctx = true) :
    ∃ e idx k, vlcEntry ctx.vlc path = some e ∧
      vlcDescend ctx.vlc (.inner e.val.toNat) (path.drop Config.vlcLook) = some (.leaf idx, k) ∧
      e.kind = .deferred ∧ Config.vlcLook + k = path.length := by
  simp only [Instr.fits] at h
  split at h
  · split at h
    · exact ⟨_, _, _, ‹_›, ‹_›, of_decide_eq_true h⟩
    · cases h
    · cases h
  · cases h

theorem decodeVlc_of_encode {ctx : DecodeCtx} {i : Instr} {bits : List Bool} (hwf : i.wellFormed = true)
    (hfits : i.fits ctx = true) (henc : encode i = .vlc bits) : decodeVlc ctx.vlc bits = .ok (i, []) := by
  cases i with
  | vlcTerm path =>
    obtain rfl : path = bits := Encoded.vlc.inj henc
    obtain ⟨e, hentry, hkind, hlen⟩ := fits_vlcTerm hfits
    simp [decodeVlc, hentry, hkind, hlen]
  | vlcZrun path run =>
    obtain rfl : path ++ natToBits run 10 = bits := Encoded.vlc.inj henc
    obtain ⟨e, hentry, hkind, hlen⟩ := fits_vlcZrun hfits
    have hrun : run < 2 ^ 10 := (of_decide_eq_true hwf).2
    have hfield : bitsToNat ((natToBits run 10).take 10) = run := by
      rw [List.take_of_length_le (by simp), bitsToNat_natToBits, Nat.mod_eq_of_lt hrun]
    simp [decodeVlc, hentry, hkind, hlen, Config.vlcZrunBits, hfield]
  | vlcDeep path =>
    obtain rfl : path = bits := Encoded.vlc.inj henc
    obtain ⟨e, idx, k, hentry, hwalk, hkind, hlen⟩ := fits_vlcDeep hfits
    have hlong : Config.vlcLook ≤ path.length := Nat.le_of_lt (of_decide_eq_true hwf)
    simp [decodeVlc, hentry, hkind, hlong, hwalk, hlen]
  | _ => cases henc

/-! ### O2 -/

/-- Settles O2: each stream's decoder inverts the encoding. -/
theorem decodeEncodeAgree : Obligations.DecodeEncodeAgree := by
  intro ctx i hwf hfits
  cases henc : encode i with
  | command c => exact (decodeCommand_eq_ok_iff c i).2 henc
  | lzss us => rw [decode, decodeLzss_of_encode hwf henc, wholeOf]
  | lzw k => exact decodeLzw_of_encode hwf hfits henc
  | rle bs => rw [decode, decodeRle_of_encode hwf henc, wholeOf]
  | vlc bits => rw [decode, decodeVlc_of_encode hwf hfits henc, wholeOf]

end Sys2Proof.Machine

/-! # The fetch of LZSS_DEC -/

namespace Sys2Proof.Machine

/-! ### O3 -/

theorem lzssReads_bit_iff {s : State} {l : Latch} {b : Bool} {us : List LzssUnit} {w w' : LzssDecWork} :
    lzssReads s l (.bit b :: us) w = some w' ↔
      (w.bitcnt ≠ 0 ∧ (lzssGetBit s l w).1 = b) ∧ lzssReads s l us (lzssGetBit s l w).2 = some w' := by
  rw [lzssReads, Option.ite_none_right_eq_some]

theorem lzssReads_byte_iff {s : State} {l : Latch} {v : Byte} {us : List LzssUnit} {w w' : LzssDecWork} :
    lzssReads s l (.byte v :: us) w = some w' ↔
      (w.ip < regionEnd l ∧ inByte s w.ip = v) ∧ lzssReads s l us { w with ip := w.ip + 1 } = some w' := by
  rw [lzssReads, Option.ite_none_right_eq_some]
  rfl

theorem lzssFetchFrom_bit {s : State} {l : Latch} {got : List LzssUnit} {w : LzssDecWork}
    (hwant : lzssWant got = .bit) (fuel : Nat) :
    lzssFetchFrom s l (fuel + 1) got w =
      if w.bitcnt = 0 then .exhausted w.ip
      else lzssFetchFrom s l fuel (got ++ [.bit (lzssGetBit s l w).1]) (lzssGetBit s l w).2 := by
  rw [lzssFetchFrom, hwant]
  rfl

theorem lzssFetchFrom_byte {s : State} {l : Latch} {got : List LzssUnit} {w : LzssDecWork}
    (hwant : lzssWant got = .byte) (fuel : Nat) :
    lzssFetchFrom s l (fuel + 1) got w =
      if regionEnd l ≤ w.ip then .exhausted w.ip
      else lzssFetchFrom s l fuel (got ++ [.byte (inByte s w.ip)]) { w with ip := w.ip + 1 } := by
  rw [lzssFetchFrom, hwant]

/-- What the fetch takes from the stream completes the token. -/
theorem lzssFetchFrom_sound {s : State} {l : Latch} {fuel : Nat} {got : List LzssUnit} {w w' : LzssDecWork} {i : Instr}
    (h : lzssFetchFrom s l fuel got w = .token i w') :
    ∃ us, lzssWant (got ++ us) = .token i ∧ lzssReads s l us w = some w' := by
  induction fuel generalizing got w with
  | zero => cases h
  | succ fuel ih =>
    cases hwant : lzssWant got with
    | token j =>
      rw [lzssFetchFrom, hwant] at h
      cases h
      exact ⟨[], by rw [List.append_nil, hwant], rfl⟩
    | bad =>
      rw [lzssFetchFrom, hwant] at h
      cases h
    | bit =>
      rw [lzssFetchFrom_bit hwant] at h
      split at h
      · cases h
      case isFalse hbits =>
        obtain ⟨us, htoken, hreads⟩ := ih h
        exact ⟨_ :: us, by simpa using htoken, lzssReads_bit_iff.2 ⟨⟨hbits, rfl⟩, hreads⟩⟩
    | byte =>
      rw [lzssFetchFrom_byte hwant] at h
      split at h
      · cases h
      case isFalse hroom =>
        obtain ⟨us, htoken, hreads⟩ := ih h
        exact ⟨_ :: us, by simpa using htoken, lzssReads_byte_iff.2 ⟨⟨Nat.lt_of_not_le hroom, rfl⟩, hreads⟩⟩

/-- Where the rest of a token stands next in the stream, the fetch takes it. -/
theorem lzssFetchFrom_complete {s : State} {l : Latch} {fuel : Nat} {got us : List LzssUnit} {w w' : LzssDecWork}
    {i : Instr} (hfuel : us.length < fuel) (h : lzssWant (got ++ us) = .token i)
    (hreads : lzssReads s l us w = some w') : lzssFetchFrom s l fuel got w = .token i w' := by
  induction us generalizing got w fuel with
  | nil =>
    obtain ⟨fuel, rfl⟩ := Nat.exists_eq_add_one.2 hfuel
    rw [List.append_nil] at h
    cases hreads
    rw [lzssFetchFrom, h]
  | cons u us ih =>
    obtain ⟨fuel, rfl⟩ := Nat.exists_eq_add_one.2 (Nat.zero_lt_of_lt hfuel)
    have hwant := lzssWant_of_cons h
    have hstep {v} (hv : lzssReads s l us v = some w') : lzssFetchFrom s l fuel (got ++ [u]) v = .token i w' :=
      ih (Nat.lt_of_succ_lt_succ hfuel) (by simpa using h) hv
    cases u with
    | bit b =>
      obtain ⟨⟨hbits, rfl⟩, hrest⟩ := lzssReads_bit_iff.1 hreads
      rw [lzssFetchFrom_bit hwant, if_neg hbits, hstep hrest]
    | byte v =>
      obtain ⟨⟨hroom, rfl⟩, hrest⟩ := lzssReads_byte_iff.1 hreads
      rw [lzssFetchFrom_byte hwant, if_neg (Nat.not_le.2 hroom), hstep hrest]

theorem lzssFetch_eq_token_iff (s : State) (l : Latch) (w w' : LzssDecWork) (i : Instr) :
    lzssFetch s l w = .token i w' ↔ ∃ us, lzssWant us = .token i ∧ lzssReads s l us w = some w' :=
  ⟨lzssFetchFrom_sound, fun ⟨_, htoken, hreads⟩ =>
    lzssFetchFrom_complete (Nat.lt_succ_of_le (lzssToken_length_le htoken)) htoken hreads⟩

theorem encode_eq_lzss {i : Instr} (h : (encode i).lzssUnits ≠ []) : encode i = .lzss (encode i).lzssUnits := by
  cases henc : encode i with
  | lzss us => rfl
  | _ => simp [henc, Encoded.lzssUnits] at h

/-- Settles O3: the fetch takes units until they read as a token, and those units are its encoding. -/
theorem lzssFetchIsDecoding : Obligations.LzssFetchIsDecoding := by
  intro s l w w' i
  rw [lzssFetch_eq_token_iff]
  constructor
  · rintro ⟨us, htoken, hreads⟩
    obtain ⟨hwf, henc⟩ := (lzssWant_eq_token_iff us i).1 htoken
    rw [henc]
    refine ⟨hwf, fun hnil => ?_, hreads⟩
    obtain rfl : us = [] := hnil
    cases htoken
  · rintro ⟨hwf, hne, hreads⟩
    exact ⟨_, lzssWant_of_encode hwf (encode_eq_lzss hne), hreads⟩

end Sys2Proof.Machine

/-! # Refusals -/

namespace Sys2Proof.Machine

/-! ### O15 -/

/-- A region with a byte nothing has written is refused (R303). -/
theorem requireInput_refused {s : State} {l : Latch} (h : ∃ k < l.n, Mem.read s.inMem (l.off + k) = none) (k : Out) :
    requireInput s l k = .refused .unwrittenInput := by
  obtain ⟨j, hj, hnone⟩ := h
  refine if_neg fun hwritten => ?_
  have hsome := (regionWritten_iff s l).1 hwritten j hj
  simp [hnone] at hsome

/-- Past R100 and R102 a command is its family's rule on the begun state. -/
theorem startFamily_checked {s : State} (hfree : busy s = false) (hfits : operandsFit (latchOf s) = true) (c : Reg)
    (k : Latch → State → Out) : startFamily c s k = k (latchOf s) (s.begin c) := by
  rw [startFamily, startCommand_free hfree, checkOperands_ok (t := s.begin c) hfits, latchOf_begin]

theorem lzwMaxWidth?_legal {s : State} (h : 9 ≤ (s.arg0.setWidth 8).toInt ∧ (s.arg0.setWidth 8).toInt ≤ 12) :
    lzwMaxWidth? (latchOf s) = some (s.arg0.setWidth 8).toInt.toNat := by
  have hoperand : codeWidthOperand (latchOf s) = (s.arg0.setWidth 8).toInt := by
    rw [codeWidthOperand, latchOf, BitVec.ofNat_toNat]
  rw [lzwMaxWidth?, hoperand]
  exact if_pos h

theorem wavSizesOk_of_doublings {t0 n : Nat} (hpos : 1 ≤ t0) (hsize : ∃ k, n = t0 * 2 ^ k) (hplane : n * n ≤ 0x10000) :
    wavSizesOk t0 n = true := by
  obtain ⟨k, rfl⟩ := hsize
  have hk : k < t0 * 2 ^ k := Nat.lt_of_lt_of_le Nat.lt_two_pow_self (Nat.le_mul_of_pos_left _ hpos)
  simp only [wavSizesOk, Bool.and_eq_true, decide_eq_true_eq, List.any_eq_true, beq_iff_eq]
  exact ⟨⟨hpos, Nat.le_mul_of_pos_right _ (Nat.two_pow_pos k), hplane⟩, k, List.mem_range.2 hk, rfl⟩

/-- Past the checks that read no input, each command's next is the region check (log 4). -/
theorem command_refuses_unwritten {s : State} {i : Instr} (hi : isCommand i = true) (hclear : i ≠ .clear)
    (hfree : busy s = false) (hfits : operandsFit (latchOf s) = true) (hown : OwnChecksPass i s)
    (hunwritten : ∃ k < (latchOf s).n, Mem.read s.inMem ((latchOf s).off + k) = none) :
    exec i s = .refused .unwrittenInput := by
  have hrefused : ∀ c k, requireInput (s.begin c) (latchOf s) k = .refused .unwrittenInput := fun c =>
    requireInput_refused (s := s.begin c) hunwritten
  cases i with
  | clear => exact absurd rfl hclear
  | lzssDec => rw [exec, execLzssDec, startFamily_checked hfree hfits, hrefused]
  | lzssEnc => rw [exec, execLzssEnc, startFamily_checked hfree hfits, hrefused]
  | rleDec => rw [exec, execRleDec, startFamily_checked hfree hfits, hrefused]
  | rleEnc => rw [exec, execRleEnc, startFamily_checked hfree hfits, hrefused]
  | lzwDec =>
    rw [exec, execLzwDec, startFamily_checked hfree hfits, lzwMaxWidth?_legal (hown.lzw (by decide))]
    exact hrefused _ _
  | lzwEnc =>
    rw [exec, execLzwEnc, startFamily_checked hfree hfits, lzwMaxWidth?_legal (hown.lzw (by decide))]
    exact hrefused _ _
  | waveletInv =>
    obtain ⟨hpos, hsize, hplane, hlen, hroom⟩ := hown.wavelet rfl
    have hsizes : ¬ wavSizesOk (latchOf s).a0 (latchOf s).a1 = false :=
      ne_false_of_eq_true (wavSizesOk_of_doublings hpos hsize hplane)
    have hbytes : ¬ (latchOf s).n ≠ Config.wordBytes * ((latchOf s).a1 * (latchOf s).a1) := not_not.2 hlen
    have hcap : ¬ (latchOf s).cap < Config.wordBytes * ((latchOf s).a1 * (latchOf s).a1) :=
      Nat.not_lt.2 (hlen ▸ hroom)
    rw [exec, execWaveletInv, startFamily_checked hfree hfits, if_neg hsizes, if_neg hbytes, if_neg hcap, hrefused]
  | vlcBuild =>
    obtain ⟨hpos, hmax, hfield⟩ := hown.build rfl
    have hs : ¬ ((latchOf s).a0 < 1 ∨ Config.sitCap < (latchOf s).a0) :=
      not_or.2 ⟨Nat.not_lt.2 hpos, Nat.not_lt.2 hmax⟩
    have hbits : ¬ regionBits (latchOf s) < Config.vlcField := Nat.not_lt.2 hfield
    rw [exec, execVlcBuild, startCommand_free hfree, checkOperands_ok (t := (s.begin _).clearTab) hfits,
      latchOf_clearTab, latchOf_begin, if_neg hs, if_neg hbits]
    exact requireInput_refused (s := (s.begin _).clearTab) hunwritten _
  | vlcDecode =>
    have hvalid : ¬ tabValid (s.begin (commandWord 0x09)) = false := ne_false_of_eq_true (hown.decode rfl)
    rw [exec, execVlcDecode, startFamily_checked hfree hfits, if_neg hvalid, hrefused]
  | _ => cases hi

/-! A token's guard without the decoder it asks for (log 14). -/

theorem withRleDec_refused {s : State} (h : ∀ l w, s.engine ≠ .run l (.rleDec w)) (k : Latch → RleDecWork → Out) :
    withRleDec s k = .refused .tokenNotFetchable := by
  unfold withRleDec
  split
  · exact absurd ‹_› (h _ _)
  · rfl

theorem withLzssDec_refused {s : State} (h : ∀ l w, s.engine ≠ .run l (.lzssDec w)) (k : Latch → LzssDecWork → Out) :
    withLzssDec s k = .refused .tokenNotFetchable := by
  unfold withLzssDec
  split
  · exact absurd ‹_› (h _ _)
  · rfl

theorem withLzwDec_refused {s : State} (h : ∀ l w, s.engine ≠ .run l (.lzwDec w)) (k : Latch → LzwDecWork → Out) :
    withLzwDec s k = .refused .tokenNotFetchable := by
  unfold withLzwDec
  split
  · exact absurd ‹_› (h _ _)
  · rfl

theorem withVlcDecode_refused {s : State} (h : ∀ l w, s.engine ≠ .run l (.vlcDecode w)) (i : Instr)
    (k : Latch → VlcDecodeWork → Out) : withVlcDecode i s k = .refused .tokenNotFetchable := by
  unfold withVlcDecode
  split
  · exact absurd ‹_› (h _ _)
  · rfl

/-- Every token asks for its own decoder first (log 14). -/
theorem token_refused {s : State} {i : Instr} (hi : isCommand i = false)
    (h : ∀ l w, s.engine = .run l w → ¬ fetchedBy (encode i) w) : exec i s = .refused .tokenNotFetchable := by
  cases i with
  | lzssLit | lzssSref | lzssLref | lzssXref | lzssSeg | lzssEnd =>
    exact withLzssDec_refused (fun l w he => h l _ he ⟨w, rfl⟩) _
  | lzwByte | lzwClr | lzwEntry | lzwKwk => exact withLzwDec_refused (fun l w he => h l _ he ⟨w, rfl⟩) _
  | rleByte | rleEsc | rleRun => exact withRleDec_refused (fun l w he => h l _ he ⟨w, rfl⟩) _
  | vlcTerm | vlcZrun | vlcDeep => exact withVlcDecode_refused (fun l w he => h l _ he ⟨w, rfl⟩) _ _
  | _ => cases hi

/-- Settles O15: a command past its checks meets `requireInput`, a token outside its decoder its family's guard. -/
theorem stopsOutsideTheSpec : Obligations.StopsOutsideTheSpec :=
  ⟨fun _ _ hi hclear hfree hregion hcap hown hunwritten =>
    command_refuses_unwritten hi hclear hfree ((operandsFit_iff _).2 ⟨hregion, hcap⟩) hown hunwritten,
    fun _ _ => token_refused⟩

end Sys2Proof.Machine

/-! # Sample words and LZW code classes -/

namespace Sys2Proof.Machine

/-! ### O1 -/

/-- Settles O1: each word evaluates. -/
theorem sampleWordsDecode : Obligations.SampleWordsDecode :=
  ⟨rfl, rfl, rfl, rfl, rfl, rfl, rfl, rfl⟩

/-! ### O4 -/

/-- Settles O4: the tests of `decodeLzw` in their order. -/
theorem lzwCodeClasses : Obligations.LzwCodeClasses := by
  intro ctx k hnext
  refine ⟨decodeLzw_byte ctx, ?clear, decodeLzw_entry, ?kwk, ?noString, ?beyond⟩
  case clear =>
    rintro rfl
    rfl
  case kwk =>
    intro hk hprev hroom
    rw [decodeLzw_unassigned (by omega) hk.ge, if_pos ⟨hk, hprev, hroom⟩]
  case noString =>
    intro hk hnone
    rw [decodeLzw_unassigned (by omega) hk.ge, if_neg]
    rintro ⟨-, hprev, hroom⟩
    rcases hnone with hnone | hfull
    · simp [hprev] at hnone
    · omega
  case beyond =>
    intro hk
    rw [decodeLzw_unassigned (by omega) hk.le, if_neg (by omega)]

end Sys2Proof.Machine

/-! PROOFS. The family of `40_commands.md`: what `raise` and `emit` do, where every token, group and input byte ends
without room for its output, and how commands start or fail the common check. -/

/-! # Faults, output and command starts -/

namespace Sys2Proof.Machine

/-! ### O21 -/

/-- The two ways of writing output down agree while DST_LEN does not wrap. -/
theorem withOutput_eq_putAll {s : State} {bs : List Byte} (h : s.dstLen.toNat + bs.length < 2 ^ 32) :
    withOutput s bs = s.putAll bs := by
  have hlen : (s.putAll bs).dstLen = s.dstLen + BitVec.ofNat 32 bs.length := by
    refine BitVec.eq_of_toNat_eq ?_
    rw [putAll_dstLen bs h, BitVec.toNat_add, BitVec.toNat_ofNat]
    omega
  rw [putAll_frame, putAll_outMem bs h, hlen]
  rfl

theorem emitAll_withOutput {s : State} {l : Latch} {bs : List Byte} (h : Room s l bs.length) (ip : Nat) :
    emitAll l.cap ip bs s = .ok (withOutput s bs) := by
  obtain ⟨hroom, hcap⟩ := h
  rw [emitAll_room hcap ip bs hroom, withOutput_eq_putAll (by omega)]

theorem emitAll_overflowed {s : State} {l : Latch} {bs : List Byte} (h : NoRoom s l bs.length) (ip : Nat) :
    emitAll l.cap ip bs s = .error (overflowed l ip bs s) := by
  obtain ⟨hle, hno, hcap⟩ := h
  have hfit : s.dstLen.toNat + (bs.take (l.cap - s.dstLen.toNat)).length < 2 ^ 32 := by
    rw [List.length_take]
    omega
  rcases emitAll_cases hcap ip bs hle with ⟨hroom, _⟩ | ⟨_, heq⟩
  · omega
  · rw [heq, overflowed, withOutput_eq_putAll hfit]

theorem raise_errcode_toNat (f : BlockFault) (pos : Nat) (s : State) : (raise f pos s).errcode.toNat = f.code := by
  cases f <;> rfl

/-- Settles O21: `raise` writes four fields; `emitAll` stores what fits. -/
theorem raiseAndEmit : Obligations.RaiseAndEmit :=
  ⟨fun f pos s hpos => ⟨raise_errcode_toNat f pos s, Nat.mod_eq_of_lt hpos, rfl⟩, rfl,
    fun _ _ ip _ => ⟨fun h => emitAll_withOutput h ip, fun h => emitAll_overflowed h ip⟩⟩

/-! ### O14 -/

/-- A command that fails the common check stops there (R102). -/
theorem startFamily_badOperands {s : State} (hfree : busy s = false) (hbad : operandsFit (latchOf s) = false) (c : Reg)
    (k : Latch → State → Out) : startFamily c s k = .next (raise .badParameter 0 (s.begin c)) := by
  rw [startFamily, startCommand_free hfree, checkOperands_bad (t := s.begin c) hbad]

/-- Settles O14: every family's frame meets the common check first; VLC_BUILD's has cleared TAB_INFO (log 23). -/
theorem operandCheckFaultsBadParameter : Obligations.OperandCheckFaultsBadParameter := by
  intro s i hi hclear hfree hoperands
  have hbad : operandsFit (latchOf s) = false := by
    refine Bool.eq_false_iff.2 fun hfits => ?_
    obtain ⟨hregion, hcap⟩ := (operandsFit_iff _).1 hfits
    exact hoperands.elim (Nat.not_lt.2 hregion) (Nat.not_lt.2 hcap)
  cases i with
  | clear => exact absurd rfl hclear
  | vlcBuild =>
    rw [exec, execVlcBuild, startCommand_free hfree, checkOperands_bad (t := (s.begin _).clearTab) hbad]
    rfl
  | lzssDec | lzssEnc | lzwDec | lzwEnc | rleDec | rleEnc | waveletInv | vlcDecode =>
    exact startFamily_badOperands hfree hbad _ _
  | _ => cases hi

/-! ### O17 -/

theorem ReadyToStart.operandsFit {s : State} (h : ReadyToStart s) : operandsFit (latchOf s) = true :=
  (operandsFit_iff _).2 ⟨h.region, h.capacity⟩

/-- Past R100 and R102, and on a written region, a command that makes no check of its own starts (R101). -/
theorem startFamily_ready {s : State} (h : ReadyToStart s) (c : Reg) (k : Latch → State → Out) :
    startFamily c s (fun l t => requireInput t l (k l t)) = k (latchOf s) (s.begin c) := by
  rw [startFamily_checked h.idle h.operandsFit]
  exact requireInput_ok ((regionWritten_iff (s.begin c) (latchOf s)).2 h.written) _

/-- A control word is loaded low byte first (R40, R121). -/
theorem lzssRefill_word {s : State} {l : Latch} {w : LzssDecWork} (h : w.ip + 2 ≤ regionEnd l) :
    lzssRefill s l w =
      { w with bitbuf := inByte s (w.ip + 1) ++ inByte s w.ip, ip := w.ip + 2, bitcnt := 16 } := by
  rw [← ofNat_leValue_two]
  exact if_pos h

theorem lzssRefill_short {s : State} {l : Latch} {w : LzssDecWork} (h : regionEnd l < w.ip + 2) :
    lzssRefill s l w = { w with bitcnt := 0 } := if_neg (Nat.not_le.2 h)

theorem execLzssDec_ready {s : State} (h : ReadyToStart s) :
    exec .lzssDec s = .next ((s.begin 0x01).setRun (latchOf s) (.lzssDec (lzssRefill (s.begin 0x01) (latchOf s)
      { ip := s.srcOff.toNat, bitbuf := Config.unspecBitbuf (s.starts + 1), bitcnt := 0, wp := 0, total := 0 }))) :=
  startFamily_ready h _ _

theorem lzssReserve_room {s : State} {l : Latch} (h : Room s l 2) (w : LzssEncWork) :
    lzssReserve l w s = .ok (withOutput s [0, 0], { w with slot := s.dstLen.toNat, cw := 0, cc := 0 }) := by
  rw [lzssReserve, emitAll_withOutput (bs := List.replicate Config.lzssCtlBytes 0) h]
  rfl

theorem lzssReserve_noRoom {s : State} {l : Latch} (h : NoRoom s l 2) (w : LzssEncWork) :
    lzssReserve l w s = .error (overflowed l (l.off + w.pos) [0, 0] s) := by
  rw [lzssReserve, emitAll_overflowed (bs := List.replicate Config.lzssCtlBytes 0) h]
  rfl

theorem execLzssEnc_reserved {s u : State} {w : LzssEncWork} (h : ReadyToStart s)
    (hres : lzssReserve (latchOf s) { pos := 0, cw := 0, cc := 0, slot := 0 } (s.begin (commandWord 0x02)) =
      .ok (u, w)) :
    exec .lzssEnc s = .next (u.setRun (latchOf s) (.lzssEnc w)) := by
  rw [exec, execLzssEnc, startFamily_ready h, hres]

theorem execLzssEnc_unreserved {s e : State} (h : ReadyToStart s)
    (hres : lzssReserve (latchOf s) { pos := 0, cw := 0, cc := 0, slot := 0 } (s.begin (commandWord 0x02)) = .error e) :
    exec .lzssEnc s = .next e := by
  rw [exec, execLzssEnc, startFamily_ready h, hres]

/-- Settles O17: past the checks each command is its own start. -/
theorem rleAndLzssCommandsStart : Obligations.RleAndLzssCommandsStart := by
  intro s hs
  refine ⟨startFamily_ready hs _ _, startFamily_ready hs _ _, ?lzssDec, fun hcap => ?reserved,
    fun hcap => ?overflow⟩
  case lzssDec =>
    rw [execLzssDec_ready hs]
    split
    · rw [lzssRefill_word (by simpa [regionEnd, latchOf])]
      rfl
    · rw [lzssRefill_short (by simp [regionEnd, latchOf]; omega)]
  case reserved =>
    have hroom : Room (s.begin (commandWord 0x02)) (latchOf s) 2 := ⟨(Nat.zero_add 2).le.trans hcap, s.dstCap.isLt⟩
    exact execLzssEnc_reserved hs (lzssReserve_room hroom _)
  case overflow =>
    have hnone : NoRoom (s.begin (commandWord 0x02)) (latchOf s) 2 :=
      ⟨Nat.zero_le _, hcap.trans_eq (Nat.zero_add 2).symm, s.dstCap.isLt⟩
    refine ⟨_, execLzssEnc_unreserved hs (lzssReserve_noRoom hnone _), rfl, rfl, ?_, rfl⟩
    rw [overflowed, raise_errpos, latchOf, Nat.add_zero, BitVec.ofNat_toNat, BitVec.setWidth_eq]

end Sys2Proof.Machine

/-! # Output without room -/

namespace Sys2Proof.Machine

/-! ## Output that does not fit, in every operation that emits -/

theorem afterEmit_overflowed {s : State} {l : Latch} {bs : List Byte} (h : NoRoom s l bs.length) (ip : Nat)
    (k : State → Out) : afterEmit (emitAll l.cap ip bs s) k = .next (overflowed l ip bs s) := by
  rw [emitAll_overflowed h, afterEmit]

/-- A slide without room for its bytes, none of which the token has just written. -/
theorem lzssSlide_noRoom {l : Latch} {w : LzssDecWork} {s : State} {m : Memory} (hwp : 0x4000 < w.wp)
    (hagree : AgreeBelow 0x2000 s.win m) (h : NoRoom s l 0x2000) :
    lzssSlide l w (s.setWin m) = .next ((overflowed l w.ip (winBytes s.win 0 0x2000) s).setWin m) := by
  have hbytes : winBytes m 0 Config.winSlide = winBytes s.win 0 0x2000 := hagree.winBytes (Nat.le_refl _)
  refine lzssSlide_overflowed hwp ?_
  rw [setWin_win, hbytes, emitAll_setWin, emitAll_overflowed (by simpa [winBytes] using h)]
  rfl

theorem lzssEnd_noRoom {l : Latch} {w : LzssDecWork} {s : State} (h : NoRoom s l w.wp) (flags : Reg) :
    lzssEnd flags l w s = .next (overflowed l w.ip (winBytes s.win 0 w.wp) s) :=
  afterEmit_overflowed (by simpa [winBytes] using h) _ _

/-! ## Tokens in their decoder -/

theorem withRleDec_run {s : State} {l : Latch} {w : RleDecWork} (h : s.engine = .run l (.rleDec w))
    (k : Latch → RleDecWork → Out) : withRleDec s k = k l w := by
  rw [withRleDec, h]

theorem withVlcDecode_run {s : State} {l : Latch} {w : VlcDecodeWork} (h : s.engine = .run l (.vlcDecode w)) {i : Instr}
    (hfits : i.fits { lzw := { next := 0, maxW := 0, havePrev := false }, vlc := tablesOf s } = true)
    (k : Latch → VlcDecodeWork → Out) : withVlcDecode i s k = k l w := by
  rw [withVlcDecode, h]
  exact if_pos hfits

theorem exec_rleRun {s : State} {l : Latch} {w : RleDecWork} (h : s.engine = .run l (.rleDec w)) {b : Byte}
    (hlast : w.last = some b) (n : Nat) : exec (.rleRun n) s = rleOut (List.replicate (n - 1) b) b l w s := by
  rw [exec, execRleRun, withRleDec_run h, hlast]
  rfl

theorem lzwString_entry (dict : List (List Byte)) {k : Nat} (hk : 257 ≤ k) : lzwString dict k = dict[k - 257]? := by
  have hfirst : ¬ k < Config.lzwFirst := Nat.not_lt.2 hk
  rw [lzwString, if_neg (by omega), if_neg hfirst]
  rfl

theorem exec_lzwEntry {s : State} {l : Latch} {w : LzwDecWork} (h : s.engine = .run l (.lzwDec w)) {k : Nat}
    {e : List Byte} (hk : 257 ≤ k) (he : w.dict[k - 257]? = some e) : exec (.lzwEntry k) s = lzwOutput e k l w s := by
  have hfirst : Config.lzwFirst ≤ k := hk
  rw [exec, execLzwEntry, withLzwDec_run h, if_pos hfirst, lzwString_entry _ hk, he]

theorem exec_lzwKwk {s : State} {l : Latch} {w : LzwDecWork} (h : s.engine = .run l (.lzwDec w)) {pc : Nat}
    {ps : List Byte} (hprev : w.prev = some pc) (hstr : lzwString w.dict pc = some ps)
    (hroom : 257 + w.dict.length < 2 ^ w.maxW) :
    exec (.lzwKwk (257 + w.dict.length)) s = lzwOutput (ps ++ ps.take 1) (257 + w.dict.length) l w s := by
  rw [exec, execLzwKwk, withLzwDec_run h, if_pos ⟨rfl, hroom⟩, hprev, Option.bind_some, hstr]

theorem exec_vlcTerm {s : State} {l : Latch} {w : VlcDecodeWork} (h : s.engine = .run l (.vlcDecode w))
    {path : List Bool} {v : Word} (hne : path ≠ [])
    (he : s.tab2[bitsToNat (path.take 8)]? = some { kind := .terminal, val := v, len := path.length }) :
    exec (.vlcTerm path) s = vlcWord v path.length l w s := by
  have hentry : vlcEntry (tablesOf s) path = some { kind := .terminal, val := v, len := path.length } := he
  rw [exec, execVlcTerm, withVlcDecode_run h (by simp [Instr.fits, hentry]), hentry]
  exact if_neg (mt List.length_eq_zero_iff.1 hne)

theorem exec_vlcZrun {s : State} {l : Latch} {w : VlcDecodeWork} (h : s.engine = .run l (.vlcDecode w))
    {path : List Bool} {run : Nat}
    (he : s.tab2[bitsToNat ((path ++ natToBits run 10).take 8)]? =
      some { kind := .zerorun, val := 0, len := path.length }) :
    exec (.vlcZrun path run) s =
      afterEmit (emitAll l.cap (bitIp l (w.p + path.length + 10))
        (List.replicate (4 * vlcCutRun l w.words run) 0) s) fun t =>
        .next (t.setRun l (.vlcDecode
          { p := w.p + path.length + 10, words := w.words + vlcCutRun l w.words run })) := by
  have hentry : vlcEntry (tablesOf s) (path ++ natToBits run (Config.vlcZrunBits path.length)) =
      some { kind := .zerorun, val := 0, len := path.length } := he
  rw [exec, execVlcZrun, withVlcDecode_run h (by simp [Instr.fits, hentry])]
  rfl

theorem exec_vlcDeep {s : State} {l : Latch} {w : VlcDecodeWork} (h : s.engine = .run l (.vlcDecode w))
    {path : List Bool} {node v : Word} {idx : Nat} (hlong : 8 ≤ path.length)
    (he : s.tab2[bitsToNat (path.take 8)]? = some { kind := .deferred, val := node, len := 8 })
    (hwalk : vlcDescend (tablesOf s) (.inner node.toNat) (path.drop 8) = some (.leaf idx, path.length - 8))
    (hsit : Mem.read s.sit idx = some v) : exec (.vlcDeep path) s = vlcWord v path.length l w s := by
  have hentry : vlcEntry (tablesOf s) path = some { kind := .deferred, val := node, len := 8 } := he
  have hwalk' : vlcDescend (tablesOf s) (.inner node.toNat) (path.drop Config.vlcLook) =
    some (.leaf idx, path.length - 8) := hwalk
  have hlook : Config.vlcLook + (path.length - 8) = path.length := Nat.add_sub_cancel' hlong
  have hidx : vlcDeepIndex (tablesOf s) path = some idx := by simp [vlcDeepIndex, hentry, hwalk']
  rw [exec, execVlcDeep, withVlcDecode_run h (by simp [Instr.fits, hentry, hwalk', hlook]), hidx]
  simp only [hsit]

/-! ## The bit stream writer of LZSS_ENC: how many bytes units take, and where they go -/

/-- What the writer keeps below `b`, where the output began: the input position and, outside the slot it held at the
start, every byte; a slot reserved since then lies above. -/
structure WriterKeeps (b : Nat) (w : LzssEncWork) (s : State) (w' : LzssEncWork) (t : State) : Prop where
  pos : w'.pos = w.pos
  slot : w'.slot = w.slot ∨ b ≤ w'.slot
  read : ∀ a < b, a ≠ w.slot → a ≠ w.slot + 1 → Mem.read t.outMem a = Mem.read s.outMem a

theorem WriterKeeps.refl (b : Nat) (w : LzssEncWork) (s : State) : WriterKeeps b w s w s :=
  ⟨rfl, .inl rfl, fun _ _ _ _ => rfl⟩

theorem WriterKeeps.trans {b : Nat} {w w' w'' : LzssEncWork} {s t u : State} (h : WriterKeeps b w s w' t)
    (h' : WriterKeeps b w' t w'' u) : WriterKeeps b w s w'' u where
  pos := h'.pos.trans h.pos
  slot := by
    have hslot := h.slot
    have hslot' := h'.slot
    omega
  read a ha hlo hhi := by
    have hslot := h.slot
    rw [h'.read a ha (by omega) (by omega), h.read a ha hlo hhi]

theorem WriterKeeps.fillSlot (b : Nat) (w : LzssEncWork) (s : State) : WriterKeeps b w s w (lzssFillSlot w s) :=
  ⟨rfl, .inl rfl, fun _ _ hlo hhi => fillSlot_read_other w s hlo hhi⟩

theorem WriterKeeps.putAll {b : Nat} {s : State} {bs : List Byte} (hb : b ≤ s.dstLen.toNat)
    (h : s.dstLen.toNat + bs.length < 2 ^ 32) (w : LzssEncWork) : WriterKeeps b w s w (s.putAll bs) :=
  ⟨rfl, .inl rfl, fun a ha _ _ => by rw [putAll_outMem bs h, read_writeAll, if_neg (by omega)]⟩

/-- The writer's end in OutputOverflow: the output is full (R105, R146, R147; log 12). -/
def StopsFull (l : Latch) (b : Nat) (w : LzssEncWork) (s e : State) : Prop :=
  ∃ w' u, WriterKeeps b w s w' u ∧ u.dstLen.toNat = l.cap ∧ e = raise .outputOverflow (l.off + w.pos) u

theorem StopsFull.after {l : Latch} {b : Nat} {w w' : LzssEncWork} {s t e : State} (h : WriterKeeps b w s w' t)
    (h' : StopsFull l b w' t e) : StopsFull l b w s e := by
  obtain ⟨w'', u, hkeeps, hfull, rfl⟩ := h'
  exact ⟨w'', u, h.trans hkeeps, hfull, by rw [h.pos]⟩

/-- Bytes the writer emits: with room they are stored, without it stops at the capacity. -/
theorem emitAll_writes {l : Latch} {b : Nat} {w : LzssEncWork} {s : State} (hcap : l.cap < 2 ^ 32)
    (hb : b ≤ s.dstLen.toNat) (hle : s.dstLen.toNat ≤ l.cap) (bs : List Byte) :
    (s.dstLen.toNat + bs.length ≤ l.cap ∧ emitAll l.cap (l.off + w.pos) bs s = .ok (s.putAll bs) ∧
        (s.putAll bs).dstLen.toNat = s.dstLen.toNat + bs.length ∧ WriterKeeps b w s w (s.putAll bs)) ∨
      (l.cap < s.dstLen.toNat + bs.length ∧
        ∃ e, emitAll l.cap (l.off + w.pos) bs s = .error e ∧ StopsFull l b w s e) := by
  rcases emitAll_cases hcap (l.off + w.pos) bs hle with ⟨hroom, heq⟩ | ⟨hno, heq⟩
  · exact .inl ⟨hroom, heq, putAll_dstLen bs (by omega), .putAll hb (by omega) w⟩
  · have htake : s.dstLen.toNat + (bs.take (l.cap - s.dstLen.toNat)).length = l.cap := by
      rw [List.length_take]
      omega
    exact .inr ⟨hno, _, heq, w, _, .putAll hb (by omega) w, by rw [putAll_dstLen _ (by omega), htake], rfl⟩

/-- What putting units that take `k` bytes, and leave `cc` bits in the control word, results in. -/
inductive PutResult (l : Latch) (b k cc : Nat) (w : LzssEncWork) (s : State) :
    Except State (State × LzssEncWork) → Prop
  | fits {t : State} {w' : LzssEncWork} (hroom : s.dstLen.toNat + k ≤ l.cap)
      (hlen : t.dstLen.toNat = s.dstLen.toNat + k) (hcc : w'.cc = cc) (hkeeps : WriterKeeps b w s w' t) :
      PutResult l b k cc w s (.ok (t, w'))
  | overflows {e : State} (hno : l.cap < s.dstLen.toNat + k) (hstop : StopsFull l b w s e) :
      PutResult l b k cc w s (.error e)

/-- What came before, `j` bytes, and then the rest. -/
theorem PutResult.after {l : Latch} {b j k cc : Nat} {w w' : LzssEncWork} {s t : State}
    {r : Except State (State × LzssEncWork)} (hkeeps : WriterKeeps b w s w' t)
    (hlen : t.dstLen.toNat = s.dstLen.toNat + j) (h : PutResult l b k cc w' t r) : PutResult l b (j + k) cc w s r := by
  cases h with
  | fits hroom hlen' hcc hkeeps' => exact .fits (by omega) (by omega) hcc (hkeeps.trans hkeeps')
  | overflows hno hstop => exact .overflows (by omega) (hstop.after hkeeps)

theorem PutResult.noRoom {l : Latch} {b k cc : Nat} {w : LzssEncWork} {s : State}
    {r : Except State (State × LzssEncWork)} (h : PutResult l b k cc w s r) (hno : l.cap < s.dstLen.toNat + k) :
    ∃ e, r = .error e ∧ StopsFull l b w s e := by
  cases h with
  | fits hroom => omega
  | overflows _ hstop => exact ⟨_, rfl, hstop⟩

/-- A control bit is put into the word held, which may then roll. -/
theorem lzssPut_bit_rolls (l : Latch) (v : Bool) (w : LzssEncWork) (s : State) :
    ∃ w', lzssPut l (.bit v) w s = lzssRoll l w' s ∧ w'.pos = w.pos ∧ w'.slot = w.slot ∧ w'.cc = w.cc + 1 :=
  ⟨_, lzssPut_bit l v w s, rfl, rfl, rfl⟩

section
variable {l : Latch} {b : Nat} {w : LzssEncWork} {s : State} (hcap : l.cap < 2 ^ 32) (hb : b ≤ s.dstLen.toNat)
  (hle : s.dstLen.toNat ≤ l.cap)
include hcap hb hle

theorem lzssReserve_result : PutResult l b 2 0 w s (lzssReserve l w s) := by
  rw [lzssReserve]
  rcases emitAll_writes hcap hb hle (w := w) (List.replicate Config.lzssCtlBytes 0) with
    ⟨hroom, heq, hlen, hkeeps⟩ | ⟨hno, e, heq, hstop⟩
  · rw [heq]
    exact .fits hroom hlen rfl ⟨rfl, .inr hb, hkeeps.read⟩
  · rw [heq]
    exact .overflows hno hstop

/-- A full control word is filled in and the next one reserved; any other stays (R146). -/
theorem lzssRoll_result (hcc : w.cc ≤ 16) :
    PutResult l b (if 16 ≤ w.cc then 2 else 0) (w.cc % 16) w s (lzssRoll l w s) := by
  by_cases hfull : w.cc = Config.lzssCtlw
  · have hcc16 : w.cc = 16 := hfull
    rw [lzssRoll, if_pos hfull, hcc16]
    exact .after (j := 0) (.fillSlot b w s) rfl (lzssReserve_result hcap hb hle)
  · have hheld : w.cc < 16 := Nat.lt_of_le_of_ne hcc hfull
    rw [lzssRoll, if_neg hfull, if_neg (by omega)]
    exact .fits hle rfl (Nat.mod_eq_of_lt hheld).symm (.refl b w s)

/-- One unit: a data byte, or a control bit, which may fill the control word (R146, R147). -/
theorem lzssPut_result (hcc : w.cc < 16) (u : LzssUnit) :
    PutResult l b (lzssUnitBytes w.cc [u]) ((w.cc + (controlBits [u]).length) % 16) w s (lzssPut l u w s) := by
  cases u with
  | bit v =>
    have hbytes : lzssUnitBytes w.cc [.bit v] = 0 + if 16 ≤ w.cc + 1 then 2 else 0 := rfl
    have hbits : (controlBits [.bit v]).length = 1 := rfl
    obtain ⟨w', hput, hpos, hslot, hcc'⟩ := lzssPut_bit_rolls l v w s
    rw [hput, hbytes, hbits, ← hcc']
    exact .after ⟨hpos, .inl hslot, fun _ _ _ _ => rfl⟩ rfl (lzssRoll_result hcap hb hle (by omega))
  | byte v =>
    have hbytes : lzssUnitBytes w.cc [.byte v] = 1 := by simp [lzssUnitBytes, controlBits, hcc]
    rw [hbytes]
    by_cases hfull : s.dstLen.toNat = l.cap
    · rw [lzssPut, emit_full hfull]
      exact .overflows (by omega) ⟨w, s, .refl b w s, hfull, rfl⟩
    · rw [lzssPut, emit_room hfull]
      exact .fits (by omega) (putOut_dstLen_toNat (by omega) v) (Nat.mod_eq_of_lt hcc).symm
        (.putAll (bs := [v]) hb (by rw [List.length_singleton]; omega) w)

end

theorem controlBits_cons_length (u : LzssUnit) (us : List LzssUnit) :
    (controlBits (u :: us)).length = (controlBits [u]).length + (controlBits us).length := by
  rw [← List.length_append, controlBits, controlBits, controlBits, ← List.filterMap_append, List.singleton_append]

theorem controlBits_length_le (us : List LzssUnit) : (controlBits us).length ≤ us.length :=
  List.length_filterMap_le _ _

/-- Units that fill at most one control word take what the first takes and what the others take after it. -/
theorem lzssUnitBytes_cons {cc : Nat} {u : LzssUnit} {us : List LzssUnit} (hcc : cc < 16)
    (h : cc + (controlBits (u :: us)).length < 32) :
    lzssUnitBytes cc (u :: us) =
      lzssUnitBytes cc [u] + lzssUnitBytes ((cc + (controlBits [u]).length) % 16) us := by
  have hone := controlBits_length_le [u]
  have hrest := controlBits_length_le us
  rw [controlBits_cons_length] at h
  simp only [lzssUnitBytes, controlBits_cons_length u us, List.length_cons, List.length_nil] at hone ⊢
  split_ifs <;> omega

/-- The units of a token, where they fill at most one control word. -/
theorem lzssPutAll_result {l : Latch} {b : Nat} {us : List LzssUnit} {w : LzssEncWork} {s : State}
    (hcap : l.cap < 2 ^ 32) (hb : b ≤ s.dstLen.toNat) (hle : s.dstLen.toNat ≤ l.cap) (hcc : w.cc < 16)
    (h : w.cc + (controlBits us).length < 32) :
    PutResult l b (lzssUnitBytes w.cc us) ((w.cc + (controlBits us).length) % 16) w s (lzssPutAll l us w s) := by
  induction us generalizing w s with
  | nil =>
    have hbytes : lzssUnitBytes w.cc [] = 0 := by simp [lzssUnitBytes, controlBits, hcc]
    rw [hbytes]
    exact .fits hle rfl (Nat.mod_eq_of_lt hcc).symm (.refl b w s)
  | cons u us ih =>
    have hsum := controlBits_cons_length u us
    rw [lzssPutAll, lzssUnitBytes_cons hcc h]
    have hput := lzssPut_result hcap hb hle hcc u
    generalize lzssPut l u w s = r at hput
    cases hput with
    | overflows hno hstop => exact .overflows (by omega) hstop
    | @fits t w' hroom hlen hcc' hkeeps =>
      have hbits : (w.cc + (controlBits (u :: us)).length) % 16 = (w'.cc + (controlBits us).length) % 16 := by omega
      rw [hbits, ← hcc']
      exact .after hkeeps hlen (ih (by omega) (by omega) (by omega) (by omega))

/-! ## Every token, group and input byte -/

section
variable {s : State} {l : Latch}

/-- The tokens of RLE_DEC (R192, R193, R195). -/
theorem rleDec_noRoom {w : RleDecWork} (he : s.engine = .run l (.rleDec w)) :
    (∀ b : Byte, NoRoom s l 1 →
      exec (.rleByte b) s = .next (overflowed l w.ip [b] s) ∧ exec .rleEsc s = .next (overflowed l w.ip [0x90] s)) ∧
    (∀ (n : Nat) (b : Byte), w.last = some b → NoRoom s l (n - 1) →
      exec (.rleRun n) s = .next (overflowed l w.ip (List.replicate (n - 1) b) s)) := by
  refine ⟨fun b h => ⟨?_, ?_⟩, fun n b hlast h => ?_⟩
  · exact (withRleDec_run he _).trans (afterEmit_overflowed (bs := [b]) h _ _)
  · exact (withRleDec_run he _).trans (afterEmit_overflowed (bs := [0x90]) h _ _)
  · rw [exec_rleRun he hlast]
    exact afterEmit_overflowed (by rwa [List.length_replicate]) _ _

/-- The slides of LZSS_DEC's tokens (R134), its END (R131) and its soft end (R125). -/
theorem lzssDec_noRoom {w : LzssDecWork} (he : s.engine = .run l (.lzssDec w)) :
    (∀ v : Byte, 0x4000 ≤ w.wp → NoRoom s l 0x2000 → ∃ t, exec (.lzssLit v) s = .next t ∧
      t = (overflowed l w.ip (winBytes s.win 0 0x2000) s).setWin t.win) ∧
    (∀ (len dist : Nat) (i : Instr), i ∈ [Instr.lzssSref len dist, .lzssLref len dist, .lzssXref len dist] →
      i.wellFormed = true → dist ≤ w.total + w.wp → 0x4000 < w.wp + len → NoRoom s l 0x2000 →
      ∃ t, exec i s = .next t ∧ t = (overflowed l w.ip (winBytes s.win 0 0x2000) s).setWin t.win) ∧
    (NoRoom s l w.wp → (∀ off13, exec (.lzssEnd off13) s = .next (overflowed l w.ip (winBytes s.win 0 w.wp) s)) ∧
      (s.host = [] → w.bitcnt = 0 → step s = .next (overflowed l w.ip (winBytes s.win 0 w.wp) s))) := by
  refine ⟨fun v hwp h => ?lit, fun len dist i hi hwf hdist hwp h => ?copy,
    fun h => ⟨fun _ => ?token, fun hh hcnt => ?soft⟩⟩
  case lit =>
    have hslide := lzssSlide_noRoom (w := { w with wp := w.wp + 1 }) (m := Mem.write s.win w.wp v)
      (Nat.lt_succ_of_le hwp) (fun a ha => read_write_other _ _ (by omega)) h
    exact ⟨_, (withLzssDec_run he _).trans hslide, rfl⟩
  case copy =>
    simp only [List.mem_cons, List.not_mem_nil, or_false] at hi
    obtain ⟨hlen, -, -⟩ := wellFormed_copy hwf hi
    have hexec : exec i s = lzssCopy len dist l w s := by
      rcases hi with rfl | rfl | rfl <;> exact withLzssDec_run he _
    have hslide := lzssSlide_noRoom (w := { w with wp := w.wp + len }) (m := winCopy dist len w.wp s.win)
      hwp (fun a ha => winCopy_read_outside _ _ _ _ (.inl (by omega))) h
    exact ⟨_, by rw [hexec, lzssCopy_ok hdist, hslide], rfl⟩
  case token => exact (withLzssDec_run he _).trans (lzssEnd_noRoom h 0)
  case soft => rw [step_engine he hh, engineTurn, lzssDecTurn_soft hcnt, runTurn_own, lzssEnd_noRoom h]

/-- The codes of LZW_DEC that output (R166, R168). -/
theorem lzwDec_noRoom {w : LzwDecWork} (he : s.engine = .run l (.lzwDec w)) :
    (∀ b : Byte, NoRoom s l 1 → exec (.lzwByte b) s = .next (overflowed l (l.off + w.p / 8) [b] s)) ∧
    (∀ (k : Nat) (e : List Byte), 257 ≤ k → w.dict[k - 257]? = some e → NoRoom s l e.length →
      exec (.lzwEntry k) s = .next (overflowed l (l.off + w.p / 8) e s)) ∧
    (∀ (pc : Nat) (c : Byte) (ps : List Byte), w.prev = some pc → lzwString w.dict pc = some (c :: ps) →
      257 + w.dict.length < 2 ^ w.maxW → NoRoom s l (ps.length + 2) →
      exec (.lzwKwk (257 + w.dict.length)) s = .next (overflowed l (l.off + w.p / 8) (c :: ps ++ [c]) s)) := by
  refine ⟨fun b h => ?_, fun k e hk hentry h => ?_, fun pc c ps hprev hstr hroom h => ?_⟩
  · exact (withLzwDec_run he _).trans (afterEmit_overflowed (bs := [b]) h _ _)
  · rw [exec_lzwEntry he hk hentry]
    exact afterEmit_overflowed h _ _
  · rw [exec_lzwKwk he hprev hstr hroom]
    exact afterEmit_overflowed (bs := c :: ps ++ [c]) (by simpa using h) _ _

/-- The tokens of VLC_DECODE (R243 to R245). -/
theorem vlcDecode_noRoom {w : VlcDecodeWork} (he : s.engine = .run l (.vlcDecode w)) :
    (∀ (path : List Bool) (v : Word), path ≠ [] →
      s.tab2[bitsToNat (path.take 8)]? = some { kind := .terminal, val := v, len := path.length } → NoRoom s l 4 →
      exec (.vlcTerm path) s = .next (overflowed l (l.off + w.p / 8) (leBytes v) s)) ∧
    (∀ (path : List Bool) (run cut : Nat), run < 1024 →
      s.tab2[bitsToNat ((path ++ natToBits run 10).take 8)]? =
        some { kind := .zerorun, val := 0, len := path.length } →
      cut = (if l.a1 ≠ 0 ∧ l.a1 < w.words + run then l.a1 - w.words else run) → NoRoom s l (4 * cut) →
      exec (.vlcZrun path run) s =
        .next (overflowed l (l.off + (w.p + path.length + 10) / 8) (List.replicate (4 * cut) 0) s)) ∧
    (∀ (path : List Bool) (node v : Word) (idx : Nat), 8 ≤ path.length →
      s.tab2[bitsToNat (path.take 8)]? = some { kind := .deferred, val := node, len := 8 } →
      vlcDescend (tablesOf s) (.inner node.toNat) (path.drop 8) = some (.leaf idx, path.length - 8) →
      Mem.read s.sit idx = some v → NoRoom s l 4 →
      exec (.vlcDeep path) s = .next (overflowed l (l.off + w.p / 8) (leBytes v) s)) := by
  refine ⟨fun path v hne hentry h => ?_, fun path run cut _ hentry hcut h => ?_,
    fun path node v idx hlong hentry hwalk hsit h => ?_⟩
  · rw [exec_vlcTerm he hne hentry]
    exact afterEmit_overflowed h _ _
  · obtain rfl : cut = vlcCutRun l w.words run := hcut
    rw [exec_vlcZrun he hentry]
    exact afterEmit_overflowed (by rwa [List.length_replicate]) _ _
  · rw [exec_vlcDeep he hlong hentry hwalk hsit]
    exact afterEmit_overflowed h _ _

/-- RLE_ENC's group (R196). -/
theorem rleEnc_noRoom {w : RleEncWork} (hh : s.host = []) (he : s.engine = .run l (.rleEnc w)) (hi : w.i < l.n)
    (h : NoRoom s l (rleGroup ((regionBytes s l).drop w.i)).1.length) :
    step s = .next (overflowed l (l.off + w.i) (rleGroup ((regionBytes s l).drop w.i)).1 s) := by
  rw [step_engine he hh, engineTurn, runTurn_own, rleEncTurn, if_pos hi, afterEmit_overflowed h]

/-- LZW_ENC's input byte and its last code (R172, R174). -/
theorem lzwEnc_noRoom {w : LzwEncWork} (hh : s.host = []) (he : s.engine = .run l (.lzwEnc w)) :
    (w.i < l.n → NoRoom s l (lzwEncByte w (inByte s (l.off + w.i))).1.length →
      step s = .next (overflowed l (l.off + w.i) (lzwEncByte w (inByte s (l.off + w.i))).1 s)) ∧
    (w.i = l.n → NoRoom s l (lzwEncTail w).length →
      step s = .next (overflowed l (l.off + l.n) (lzwEncTail w) s)) := by
  rw [step_engine he hh, engineTurn, runTurn_own, lzwEncTurn]
  refine ⟨fun hi h => ?_, fun hi h => ?_⟩
  · rw [if_pos hi, afterEmit_overflowed h]
  · rw [if_neg hi.not_lt, afterEmit_overflowed h, hi]

/-- A token of LZSS_ENC has at most four control bits (R63 to R67, R150). -/
theorem lzssChoose_controlBits (v : Byte) (m : Nat × Nat) :
    (controlBits (encode (lzssChoose v m)).lzssUnits).length ≤ 4 := by
  unfold lzssChoose
  split
  · exact (by decide : 1 ≤ 4)
  · split
    · exact (by decide : 4 ≤ 4)
    · split <;> exact (by decide : 2 ≤ 4)

theorem lzssEncTurn_token_error {w : LzssEncWork} {e : State} (hpos : w.pos < l.n)
    (h : lzssPutAll l (encode (lzssChoose (inByte s (l.off + w.pos)) (bestMatch (regionBytes s l) w.pos))).lzssUnits
      w s = .error e) : lzssEncTurn l w s = .next e := by
  simp [lzssEncTurn, hpos, h]

theorem lzssEncTurn_end_error {w : LzssEncWork} {e : State} (hpos : w.pos = l.n)
    (h : lzssPutAll l (encode (.lzssEnd 0)).lzssUnits w s = .error e) : lzssEncTurn l w s = .next e := by
  simp [lzssEncTurn, hpos, h]

theorem lzssEncTurn_padding_error {w w' : LzssEncWork} {t e : State} (hpos : w.pos = l.n)
    (h : lzssPutAll l (encode (.lzssEnd 0)).lzssUnits w s = .ok (t, w'))
    (hpad : emitAll l.cap (l.off + w.pos) (lzssPadding t.dstLen.toNat) (lzssFillSlot w' t) = .error e) :
    lzssEncTurn l w s = .next e := by
  rw [lzssEncTurn, if_neg hpos.not_lt, h]
  simp only [fillSlot_dstLen, hpad, afterEmit]

/-- LZSS_ENC's token (R151, R152). -/
theorem lzssEnc_token_noRoom {w : LzssEncWork} (hok : LzssEncOk s l w) (hpos : w.pos < l.n)
    (h : NoRoom s l (lzssUnitBytes w.cc
      (encode (lzssChoose (inByte s (l.off + w.pos)) (bestMatch (regionBytes s l) w.pos))).lzssUnits)) :
    ∃ e, lzssEncTurn l w s = .next e ∧ StopsFull l s.dstLen.toNat w s e := by
  obtain ⟨hle, hno, hcap⟩ := h
  have hbits := lzssChoose_controlBits (inByte s (l.off + w.pos)) (bestMatch (regionBytes s l) w.pos)
  have hcc := hok.cc_lt
  obtain ⟨e, heq, hstop⟩ := (lzssPutAll_result hcap (Nat.le_refl _) hle hcc (by omega)).noRoom hno
  exact ⟨e, lzssEncTurn_token_error hpos heq, hstop⟩

/-- LZSS_ENC's END, last control word and padding (R147, R153). -/
theorem lzssEnc_end_noRoom {w : LzssEncWork} (hok : LzssEncOk s l w) (hpos : w.pos = l.n) {k : Nat}
    (hk : k = lzssUnitBytes w.cc (encode (.lzssEnd 0)).lzssUnits)
    (h : NoRoom s l (k + (16 - (s.dstLen.toNat + k) % 16) % 16)) :
    ∃ e, lzssEncTurn l w s = .next e ∧ StopsFull l s.dstLen.toNat w s e := by
  obtain ⟨hle, hno, hcap⟩ := h
  have hcc := hok.cc_lt
  have hbits : (controlBits (encode (.lzssEnd 0)).lzssUnits).length = 2 := rfl
  have hput := lzssPutAll_result (us := (encode (.lzssEnd 0)).lzssUnits) hcap (Nat.le_refl _) hle hcc (by omega)
  rw [← hk] at hput
  cases heq : lzssPutAll l (encode (.lzssEnd 0)).lzssUnits w s with
  | error e =>
    rw [heq] at hput
    cases hput with
    | overflows _ hstop => exact ⟨e, lzssEncTurn_end_error hpos heq, hstop⟩
  | ok r =>
    obtain ⟨t, w'⟩ := r
    rw [heq] at hput
    cases hput with
    | fits hroom hlen _ hkeeps =>
      have hpad : (lzssPadding t.dstLen.toNat).length = (16 - (s.dstLen.toNat + k) % 16) % 16 := by
        rw [← hlen]
        exact List.length_replicate
      rcases emitAll_writes (s := lzssFillSlot w' t) (w := w') (b := s.dstLen.toNat) hcap
        (Nat.le.intro hlen.symm) (hlen.trans_le hroom) (lzssPadding t.dstLen.toNat) with
        ⟨hfit, _⟩ | ⟨_, e, hemit, hstop⟩
      · rw [hpad, fillSlot_dstLen] at hfit
        omega
      · rw [hkeeps.pos] at hemit
        exact ⟨e, lzssEncTurn_padding_error hpos heq hemit, hstop.after (hkeeps.trans (.fillSlot _ w' t))⟩

/-- LZSS_ENC's turn. -/
theorem lzssEnc_noRoom {w : LzssEncWork} {us : List LzssUnit} (hh : s.host = []) (he : s.engine = .run l (.lzssEnc w))
    (hok : LzssEncOk s l w)
    (h : (w.pos < l.n ∧
          us = (encode (lzssChoose (inByte s (l.off + w.pos)) (bestMatch (regionBytes s l) w.pos))).lzssUnits ∧
          NoRoom s l (lzssUnitBytes w.cc us)) ∨
        (w.pos = l.n ∧ us = (encode (.lzssEnd 0)).lzssUnits ∧
          NoRoom s l (lzssUnitBytes w.cc us + (16 - (s.dstLen.toNat + lzssUnitBytes w.cc us) % 16) % 16))) :
    ∃ t, step s = .next t ∧ t.engine = .idle ∧ t.status = 0b00110 ∧ t.errcode = 18 ∧
      t.errpos = BitVec.ofNat 32 (l.off + w.pos) ∧ t.dstLen.toNat = l.cap ∧
      ∀ a < s.dstLen.toNat, a ≠ w.slot → a ≠ w.slot + 1 → Mem.read t.outMem a = Mem.read s.outMem a := by
  have hturn : ∃ e, lzssEncTurn l w s = .next e ∧ StopsFull l s.dstLen.toNat w s e := by
    rcases h with ⟨hpos, rfl, hno⟩ | ⟨hpos, rfl, hno⟩
    · exact lzssEnc_token_noRoom hok hpos hno
    · exact lzssEnc_end_noRoom hok hpos rfl hno
  obtain ⟨e, heq, w', u, hkeeps, hfull, rfl⟩ := hturn
  refine ⟨raise .outputOverflow (l.off + w.pos) u, ?_, rfl, rfl, rfl, rfl, hfull, hkeeps.read⟩
  rw [step_engine he hh, engineTurn, runTurn_own, heq]

end

/-! ### O22 -/

/-- Settles O22: each operation emits through `emitAll`, LZSS_ENC's units one at a time. -/
theorem outputWithoutRoom : Obligations.OutputWithoutRoom := by
  intro s l
  exact ⟨fun _ => rleDec_noRoom, fun _ => lzssDec_noRoom, fun _ => lzwDec_noRoom, fun _ => vlcDecode_noRoom,
    fun _ => rleEnc_noRoom, fun _ _ => lzssEnc_noRoom, fun _ => lzwEnc_noRoom⟩

end Sys2Proof.Machine

/-! PROOFS. The family of `41_lzss.md`: the decoded history that LZSS_DEC's tokens extend, what its reader reads, the
match search and the choice of tokens, the stream LZSS_ENC writes, and the round trip of the two. -/

/-! # The decoded history -/

namespace Sys2Proof.Machine

/-! ## OUT and WIN as lists -/

@[simp] theorem winCells_length (m : Memory) (n : Nat) : (winCells m n).length = n := by simp [winCells]

theorem outCells_eq (s : State) : outCells s = winCells s.outMem s.dstLen.toNat := rfl

@[simp] theorem outCells_length (s : State) : (outCells s).length = s.dstLen.toNat := winCells_length _ _

@[simp] theorem outCells_setRun (s : State) (l : Latch) (w : Work) : outCells (s.setRun l w) = outCells s := rfl
@[simp] theorem outCells_setWin (s : State) (m : Memory) : outCells (s.setWin m) = outCells s := rfl

theorem winCells_getElem? (m : Memory) {a n : Nat} (h : a < n) : (winCells m n)[a]? = some (Mem.read m a) := by
  simp [winCells, h]

theorem winCells_succ (m : Memory) (n : Nat) : winCells m (n + 1) = winCells m n ++ [Mem.read m n] := by
  simp [winCells, List.range_succ]

theorem AgreeBelow.winCells {n : Nat} {m m' : Memory} (h : AgreeBelow n m m') : winCells m' n = winCells m n :=
  List.map_congr_left fun a ha => h a (List.mem_range.1 ha)

/-- A write at the end of a list of cells appends the byte. -/
theorem winCells_write (m : Memory) (n : Nat) (v : Byte) :
    winCells (Mem.write m n v) (n + 1) = winCells m n ++ [some v] := by
  have hbelow : AgreeBelow n m (Mem.write m n v) := fun a ha => read_write_other m v (Nat.ne_of_lt ha)
  rw [winCells_succ, hbelow.winCells, read_write_same]

theorem winCells_writeAll (m : Memory) (n : Nat) (bs : List Byte) :
    winCells (Mem.writeAll m n bs) (n + bs.length) = winCells m n ++ bs.map some := by
  induction bs generalizing m n with
  | nil => simp [Mem.writeAll]
  | cons b bs ih =>
    rw [Mem.writeAll, List.length_cons, Nat.add_comm bs.length, ← Nat.add_assoc, ih, winCells_write]
    simp

/-- Output appends its bytes to OUT (R105). -/
theorem outCells_putAll {s : State} {bs : List Byte} (h : s.dstLen.toNat + bs.length < 2 ^ 32) :
    outCells (s.putAll bs) = outCells s ++ bs.map some := by
  rw [outCells_eq, putAll_dstLen bs h, putAll_outMem bs h, winCells_writeAll, outCells_eq]

/-- Written cells are the bytes read there. -/
theorem winCells_written {m : Memory} {n : Nat} (h : ∀ a < n, (Mem.read m a).isSome = true) :
    winCells m n = (winBytes m 0 n).map some := by
  rw [winBytes, List.map_map]
  refine List.map_congr_left fun a ha => ?_
  obtain ⟨v, hv⟩ := Option.isSome_iff_exists.1 (h a (List.mem_range.1 ha))
  simp [winByte, hv]

/-- A slide moves the written cells above `k` down by `k` (R134). -/
theorem winCells_winShift {m : Memory} {k n : Nat} (hpos : 0 < k)
    (h : ∀ a < k + n, (Mem.read m a).isSome = true) :
    winCells m k ++ winCells (winShift k n 0 m) n = winCells m (k + n) := by
  have hmoved : winCells (winShift k n 0 m) n = (List.range n).map fun a => Mem.read m (k + a) := by
    refine List.map_congr_left fun a ha => ?_
    have han := List.mem_range.1 ha
    obtain ⟨v, hv⟩ := Option.isSome_iff_exists.1 (h (k + a) (Nat.add_lt_add_left han k))
    rw [winShift_read_inside m hpos n 0 ⟨Nat.zero_le a, by omega⟩, winByte, Nat.add_comm a k, hv]
    rfl
  rw [hmoved, winCells, winCells, List.range_add, List.map_append, List.map_map]
  rfl

/-! ## A reference on an unbounded history -/

/-- One byte of a reference whose distance the list reaches. -/
theorem copyBack_succ {α : Type} {dist : Nat} {h : List α} {x : α} (hx : h[h.length - dist]? = some x) (len : Nat) :
    copyBack dist (len + 1) h = copyBack dist len (h ++ [x]) := by
  rw [copyBack, hx]
  rfl

/-- A reference reads no further back than its distance. -/
theorem copyBack_append {α : Type} (xs : List α) {dist : Nat} (hpos : 1 ≤ dist) (len : Nat) {h : List α}
    (hle : dist ≤ h.length) : copyBack dist len (xs ++ h) = xs ++ copyBack dist len h := by
  induction len generalizing h with
  | zero => rfl
  | succ len ih =>
    have hlt : h.length - dist < h.length := by omega
    have hx := List.getElem?_eq_getElem hlt
    have hx' : (xs ++ h)[(xs ++ h).length - dist]? = some h[h.length - dist] := by
      rw [List.length_append, Nat.add_sub_assoc hle, List.getElem?_append_right (Nat.le_add_right _ _),
        Nat.add_sub_cancel_left, hx]
    rw [copyBack_succ hx, copyBack_succ hx', List.append_assoc, ih (by simp; omega)]

/-- The window's byte-by-byte copy is the reference on the list of its cells (R132, R135). -/
theorem winCells_winCopy {dist : Nat} (hpos : 1 ≤ dist) (len : Nat) {wp : Nat} {m : Memory} (hle : dist ≤ wp)
    (h : ∀ a < wp, (Mem.read m a).isSome = true) :
    winCells (winCopy dist len wp m) (wp + len) = copyBack dist len (winCells m wp) := by
  induction len generalizing wp m with
  | zero => rfl
  | succ len ih =>
    have hsource : wp - dist < wp := by omega
    obtain ⟨v, hv⟩ := Option.isSome_iff_exists.1 (h _ hsource)
    have hcell : (winCells m wp)[(winCells m wp).length - dist]? = some (some v) := by
      rw [winCells_length, winCells_getElem? m hsource, hv]
    have hwritten : ∀ a < wp + 1, (Mem.read (Mem.write m wp v) a).isSome = true := by
      intro a ha
      rw [read_write]
      split
      · rfl
      · exact h a (by omega)
    have hbyte : winByte m (wp - dist) = v := by rw [winByte, hv, Option.getD_some]
    rw [copyBack_succ hcell, ← winCells_write, winCopy, hbyte, ← ih (by omega) hwritten]
    congr 1
    omega

/-! ### O26 -/

/-- The slide leaves the history as it is, and of the cursors moves `wp` and `total` alone (R134, R135). -/
theorem UnslidOk.slide_history {s : State} {l : Latch} {w : LzssDecWork} (hok : UnslidOk s l w)
    (hroom : w.wp ≤ 0x4000 ∨ Room s l 0x2000) :
    ∃ t w', lzssSlide l w s = .next t ∧ t.engine = .run l (.lzssDec w') ∧ lzssHistory t w' = lzssHistory s w ∧
      w'.ip = w.ip ∧ w'.bitbuf = w.bitbuf ∧ w'.bitcnt = w.bitcnt := by
  by_cases hwp : w.wp ≤ 0x4000
  · exact ⟨_, w, lzssSlide_stay hwp l s, rfl, rfl, rfl, rfl, rfl⟩
  · obtain ⟨hlen, hcap⟩ := hroom.resolve_left hwp
    have hbytes : (winBytes s.win 0 Config.winSlide).length = 0x2000 := by simp [winBytes, Config.winSlide]
    refine ⟨_, _, lzssSlide_room hcap (Nat.lt_of_not_le hwp) hlen, rfl, ?_, rfl, rfl, rfl⟩
    simp only [Config.winSlide] at hbytes ⊢
    have hsplit : 0x2000 + (w.wp - 0x2000) = w.wp := by omega
    have hcells := winCells_winShift (m := s.win) (k := 0x2000) (n := w.wp - 0x2000) (by decide)
      (by rw [hsplit]; exact hok.written)
    have hput := outCells_putAll (s := s) (bs := winBytes s.win 0 0x2000) (by omega)
    rw [lzssHistory, lzssHistory, outCells_setRun, outCells_setWin, hput, setRun_win, setWin_win, putAll_win,
      List.append_assoc, ← winCells_written fun a (ha : a < 0x2000) => hok.written a (by omega), hcells, hsplit]

theorem exec_lzssCopy {s : State} {l : Latch} {w : LzssDecWork} (he : s.engine = .run l (.lzssDec w)) {len dist : Nat}
    {i : Instr} (hi : i = .lzssSref len dist ∨ i = .lzssLref len dist ∨ i = .lzssXref len dist) :
    exec i s = lzssCopy len dist l w s := by
  rcases hi with rfl | rfl | rfl <;> exact withLzssDec_run he _

theorem mem_lzssCopies {i : Instr} {len dist : Nat} :
    i ∈ [Instr.lzssSref len dist, .lzssLref len dist, .lzssXref len dist] ↔
      i = .lzssSref len dist ∨ i = .lzssLref len dist ∨ i = .lzssXref len dist := by
  simp only [List.mem_cons, List.not_mem_nil, or_false]

/-- LIT appends its byte (R126). -/
theorem lzssLit_history {s : State} {l : Latch} {w : LzssDecWork} (he : s.engine = .run l (.lzssDec w))
    (hok : LzssDecOk s l w) (hroom : w.wp + 1 ≤ 0x4000 ∨ Room s l 0x2000) (v : Byte) :
    ∃ t w', exec (.lzssLit v) s = .next t ∧ t.engine = .run l (.lzssDec w') ∧
      lzssHistory t w' = lzssHistory s w ++ [some v] ∧
      w'.ip = w.ip ∧ w'.bitbuf = w.bitbuf ∧ w'.bitcnt = w.bitcnt := by
  have hunslid := hok.unslid (m := Mem.write s.win w.wp v) (k := 1) (by decide)
    (fun a ha => read_write_other _ _ (Nat.ne_of_lt ha))
    (fun a ha => by rw [Nat.le_antisymm (Nat.le_of_lt_succ ha.2) ha.1, read_write_same]; rfl)
  obtain ⟨t, w', hslide, hrun, hhist, hreader⟩ := hunslid.slide_history hroom
  refine ⟨t, w', (withLzssDec_run he _).trans hslide, hrun, ?_, hreader⟩
  rw [hhist, lzssHistory, setWin_win, winCells_write, ← List.append_assoc]
  rfl

/-- A reference to bytes produced extends the history as an unbounded buffer's (R132, R135). -/
theorem lzssCopy_history {s : State} {l : Latch} {w : LzssDecWork} (hok : LzssDecOk s l w) {len dist : Nat}
    (hlen : len ≤ 256) (hpos : 1 ≤ dist) (hmax : dist ≤ 0x2000) (hdist : dist ≤ w.total + w.wp)
    (hroom : w.wp + len ≤ 0x4000 ∨ Room s l 0x2000) :
    ∃ t w', lzssCopy len dist l w s = .next t ∧ t.engine = .run l (.lzssDec w') ∧
      lzssHistory t w' = copyBack dist len (lzssHistory s w) ∧
      w'.ip = w.ip ∧ w'.bitbuf = w.bitbuf ∧ w'.bitcnt = w.bitcnt := by
  have hunslid := hok.unslid (m := winCopy dist len w.wp s.win) hlen
    (fun a ha => winCopy_read_outside _ _ _ _ (.inl ha)) (fun a ha => winCopy_written _ _ _ _ ha)
  obtain ⟨t, w', hslide, hrun, hhist, hreader⟩ := hunslid.slide_history hroom
  have hwp := hok.dist_le_wp hmax hdist
  refine ⟨t, w', (lzssCopy_ok hdist len l s).trans hslide, hrun, ?_, hreader⟩
  rw [hhist, lzssHistory, lzssHistory, copyBack_append _ hpos _ (by rwa [winCells_length]),
    ← winCells_winCopy hpos len hwp hok.written]
  rfl

/-- Settles O26: the window's cells are the end of the history, whatever of it a slide has flushed. -/
theorem lzssTokensExtendHistory : Obligations.LzssTokensExtendHistory := by
  intro s l w he
  refine ⟨fun v hok hroom => lzssLit_history he hok hroom v, fun len dist i hi => ?_⟩
  have hi := mem_lzssCopies.1 hi
  rw [exec_lzssCopy he hi]
  refine ⟨fun hok hwf hdist hroom => ?_, fun hfar => lzssCopy_bad hfar len l s⟩
  obtain ⟨hlen, hpos, hmax⟩ := wellFormed_copy hwf hi
  exact lzssCopy_history hok hlen hpos hmax hdist hroom

/-! ### O27 -/

/-- The end of LZSS_DEC flushes the window: OUT holds the whole history (R136). -/
theorem lzssEnd_history {s : State} {l : Latch} {w : LzssDecWork} (hok : LzssDecOk s l w) (hroom : Room s l w.wp)
    (flags : Reg) :
    ∃ t, lzssEnd flags l w s = .next t ∧ outCells t = lzssHistory s w ∧ t.dstLen.toNat = s.dstLen.toNat + w.wp ∧
      t.srcUsed = BitVec.ofNat 32 (w.ip - l.off) ∧ t.status = statusFinished flags ∧ t.engine = .idle := by
  obtain ⟨hlen, hcap⟩ := hroom
  have hbytes : (winBytes s.win 0 w.wp).length = w.wp := by simp [winBytes]
  refine ⟨_, lzssEnd_room hcap hlen flags, ?_, ?_, rfl, rfl, rfl⟩
  · rw [lzssHistory, winCells_written hok.written]
    exact outCells_putAll (by omega)
  · rw [finish_dstLen, putAll_dstLen _ (by omega), hbytes]

/-- Settles O27: SEG runs into a slide that stays, END into the flush. -/
theorem lzssSegAndEndResults : Obligations.LzssSegAndEndResults := by
  intro s l w off13 he
  refine ⟨fun hwp => ?seg, fun hok hroom => ?fin⟩
  case seg =>
    have hstay := (withLzssDec_run he fun l w => lzssSlide l w s).trans (lzssSlide_stay hwp l s)
    rwa [setRun_self he] at hstay
  case fin =>
    obtain ⟨t, hend, hrest⟩ := lzssEnd_history hok hroom 0
    exact ⟨t, (withLzssDec_run he _).trans hend, hrest⟩

/-! ### O46 -/

/-- Without a slide the end of a token leaves WIN and OUT as the token's own writes left them. -/
theorem lzssSlide_frame {l : Latch} {w : LzssDecWork} {s t : State} (hwp : w.wp ≤ 0x4000)
    (h : lzssSlide l w s = .next t) : t.win = s.win ∧ t.outMem = s.outMem ∧ t.dstLen = s.dstLen := by
  rw [lzssSlide_stay hwp] at h
  cases h
  exact ⟨rfl, rfl, rfl⟩

/-- Settles O46: LIT writes the cell at `wp`, a reference the cells its copy writes or, as a fault, none. -/
theorem windowFrame : Obligations.WindowFrame := by
  intro i len dist s t l w hi he hwp h
  rcases hi with ⟨⟨v, rfl⟩, rfl⟩ | hi
  · obtain ⟨hwin, hout⟩ := lzssSlide_frame hwp ((withLzssDec_run he _).symm.trans h)
    refine ⟨fun a ha => ?_, hout⟩
    rw [hwin]
    exact read_write_other _ _ (by omega)
  · rw [exec_lzssCopy he (mem_lzssCopies.1 hi)] at h
    rcases lzssCopy_next h with rfl | ⟨_, hslide⟩
    · exact ⟨fun _ _ => rfl, rfl, rfl⟩
    · obtain ⟨hwin, hout⟩ := lzssSlide_frame hwp hslide
      refine ⟨fun a ha => ?_, hout⟩
      rw [hwin]
      exact winCopy_read_outside _ _ _ _ ha

end Sys2Proof.Machine

/-! # What LZSS_DEC reads -/

namespace Sys2Proof.Machine

/-! ### O9 -/

/-- A token's first unit is a control bit, so its first unit read was one. -/
theorem bitcnt_ne_zero_of_lzssReads {s : State} {l : Latch} {i : Instr} {us rest : List LzssUnit}
    {w w' : LzssDecWork} (hwf : i.wellFormed = true) (hunits : (encode i).lzssUnits = us ++ rest) (hne : us ≠ [])
    (hreads : lzssReads s l us w = some w') : w.bitcnt ≠ 0 := by
  obtain ⟨u, us, rfl⟩ := List.exists_cons_of_ne_nil hne
  have htoken := lzssWant_of_encode hwf (encode_eq_lzss (by rw [hunits]; exact List.cons_ne_nil _ _))
  have hfirst : lzssWant [] = wantFor u := lzssWant_of_cons (got := []) (us := us ++ rest) (hunits ▸ htoken)
  cases u with
  | bit b => exact (lzssReads_bit_iff.1 hreads).1.1
  | byte v => cases hfirst

/-- Settles O9: the fetch takes the token whose encoding is read (O3), and the turn runs it. -/
theorem lzssStepRunsTheToken : Obligations.LzssStepRunsTheToken := by
  intro s l w w' i hh he hwf hne hreads
  have hcnt := bitcnt_ne_zero_of_lzssReads hwf (List.append_nil _).symm hne hreads
  have hfetch := (lzssFetchIsDecoding s l w w' i).2 ⟨hwf, hne, hreads⟩
  rw [step_engine he hh, engineTurn, lzssDecTurn_token hcnt hfetch, runTurn_instr]

/-! ### O28 -/

/-- The unit a token wants next is not there: no control bit is buffered, or the region is at its end (R123, R125). -/
def UnitMissing (l : Latch) (w : LzssDecWork) (u : LzssUnit) : Prop :=
  (∃ b, u = .bit b) ∧ w.bitcnt = 0 ∨ (∃ v, u = .byte v) ∧ regionEnd l ≤ w.ip

/-- Where a unit of a token is missing, the fetch stops at the input position then. -/
theorem lzssFetchFrom_missing {s : State} {l : Latch} {fuel : Nat} {got us rest : List LzssUnit} {u : LzssUnit}
    {w w' : LzssDecWork} {i : Instr} (hfuel : us.length < fuel) (h : lzssWant (got ++ us ++ u :: rest) = .token i)
    (hreads : lzssReads s l us w = some w') (hmiss : UnitMissing l w' u) :
    lzssFetchFrom s l fuel got w = .exhausted w'.ip := by
  induction us generalizing got w fuel with
  | nil =>
    obtain ⟨fuel, rfl⟩ := Nat.exists_eq_add_one.2 hfuel
    have hwant := lzssWant_of_cons (List.append_nil got ▸ h)
    cases hreads
    rcases hmiss with ⟨⟨b, rfl⟩, hcnt⟩ | ⟨⟨v, rfl⟩, hend⟩
    · rw [lzssFetchFrom_bit hwant, if_pos hcnt]
    · rw [lzssFetchFrom_byte hwant, if_pos hend]
  | cons x us ih =>
    obtain ⟨fuel, rfl⟩ := Nat.exists_eq_add_one.2 (Nat.zero_lt_of_lt hfuel)
    rw [List.append_assoc] at h
    have hwant := lzssWant_of_cons h
    have hstep {v} (hv : lzssReads s l us v = some w') : lzssFetchFrom s l fuel (got ++ [x]) v = .exhausted w'.ip :=
      ih (Nat.lt_of_succ_lt_succ hfuel) (by simpa using h) hv
    cases x with
    | bit b =>
      obtain ⟨⟨hbits, rfl⟩, hrest⟩ := lzssReads_bit_iff.1 hreads
      rw [lzssFetchFrom_bit hwant, if_neg hbits, hstep hrest]
    | byte v =>
      obtain ⟨⟨hroom, rfl⟩, hrest⟩ := lzssReads_byte_iff.1 hreads
      rw [lzssFetchFrom_byte hwant, if_neg (Nat.not_le.2 hroom), hstep hrest]

/-- Taking a bit leaves the input position, or it was the last one held and the next control word is loaded (R122). -/
theorem lzssGetBit_ip (s : State) (l : Latch) (w : LzssDecWork) :
    ((lzssGetBit s l w).2.ip = w.ip ∧ (lzssGetBit s l w).2.bitcnt = w.bitcnt - 1) ∨
      (w.bitcnt ≤ 1 ∧ (lzssGetBit s l w).2.ip = w.ip + 2 ∧ (lzssGetBit s l w).2.bitcnt = 16) := by
  by_cases hlast : w.bitcnt - 1 = 0
  · by_cases hroom : w.ip + Config.lzssCtlBytes ≤ regionEnd l
    · refine .inr ⟨Nat.sub_eq_zero_iff_le.1 hlast, ?_⟩
      simp only [lzssGetBit, Config.lzssEagerRefill, if_true, hlast, lzssRefill, if_pos hroom]
      exact ⟨rfl, rfl⟩
    · simp [lzssGetBit, Config.lzssEagerRefill, hlast, lzssRefill, hroom]
  · simp [lzssGetBit, Config.lzssEagerRefill, hlast]

/-- Reading units moves the input position a byte for each at most, and a byte more where the control word held does
not last: it is loaded once at most, and its two bytes come with a bit that is one of the units. -/
theorem lzssReads_ip {s : State} {l : Latch} {us : List LzssUnit} {w w' : LzssDecWork} (hlen : us.length ≤ 15)
    (h : lzssReads s l us w = some w') :
    w.ip ≤ w'.ip ∧ w'.ip ≤ w.ip + us.length + if us.length < w.bitcnt then 0 else 1 := by
  induction us generalizing w with
  | nil =>
    cases h
    exact ⟨Nat.le_refl _, by omega⟩
  | cons u us ih =>
    rw [List.length_cons] at hlen ⊢
    cases u with
    | bit b =>
      obtain ⟨-, hrest⟩ := lzssReads_bit_iff.1 h
      have hrest := ih (by omega) hrest
      rcases lzssGetBit_ip s l w with ⟨hip, hcnt⟩ | ⟨hlast, hip, hcnt⟩ <;> rw [hip, hcnt] at hrest <;>
        split_ifs at hrest ⊢ <;> omega
    | byte v =>
      obtain ⟨-, hrest⟩ := lzssReads_byte_iff.1 h
      have hrest := ih (by omega) hrest
      simp only at hrest
      split_ifs at hrest ⊢ <;> omega

/-- Settles O28: between tokens the soft end flushes the window; inside one the fetch finds a unit missing. -/
theorem lzssExhaustion : Obligations.LzssExhaustion := by
  intro s l w hh he
  refine ⟨fun hok hroom hcnt => ?soft, fun i us rest u w' hwf hunits hne hreads hmiss => ?inside⟩
  case soft =>
    obtain ⟨t, hend, hhist, -, hused, hstatus, hidle⟩ := lzssEnd_history hok hroom statusSoftEnd
    refine ⟨t, ?_, hhist, hused, hstatus, hidle⟩
    rw [step_engine he hh, engineTurn, lzssDecTurn_soft hcnt, runTurn_own, hend]
  case inside =>
    have hcnt := bitcnt_ne_zero_of_lzssReads hwf hunits hne hreads
    have htoken := lzssWant_of_encode hwf (encode_eq_lzss (by simp [hunits]))
    have hlen := lzssToken_length_le htoken
    rw [hunits] at htoken hlen
    rw [List.length_append, List.length_cons] at hlen
    have hfetch : lzssFetch s l w = .exhausted w'.ip :=
      lzssFetchFrom_missing (got := []) (by omega) htoken hreads hmiss
    refine ⟨by rw [step_engine he hh, engineTurn, lzssDecTurn_exhausted hcnt hfetch, runTurn_own], ?_⟩
    have hip := lzssReads_ip (by omega) hreads
    split_ifs at hip <;> omega

end Sys2Proof.Machine

/-! # The match search and the choice of tokens -/

namespace Sys2Proof.Machine

/-! ### O29 -/

/-- Two byte strings agree for `len` bytes. -/
theorem le_commonLength_iff (xs ys : List Byte) (len : Nat) :
    len ≤ commonLength xs ys ↔ len ≤ xs.length ∧ len ≤ ys.length ∧ ∀ k < len, xs[k]? = ys[k]? := by
  induction xs generalizing ys len with
  | nil =>
    simp only [commonLength, List.length_nil, Nat.le_zero_eq]
    exact ⟨fun h => ⟨h, by omega, by omega⟩, And.left⟩
  | cons x xs ih =>
    cases ys with
    | nil =>
      simp only [commonLength, List.length_nil, Nat.le_zero_eq]
      exact ⟨fun h => ⟨by omega, h, by omega⟩, fun h => h.2.1⟩
    | cons y ys =>
      cases len with
      | zero => simp
      | succ len =>
        have hagree : (∀ k < len + 1, (x :: xs)[k]? = (y :: ys)[k]?) ↔ x = y ∧ ∀ k < len, xs[k]? = ys[k]? := by
          rw [Nat.forall_lt_succ_left']
          simp
        rw [hagree, commonLength]
        by_cases hxy : x = y
        · simp [hxy, ih]
        · simp [hxy]

/-- A match at distance `dist`, whose bytes may overlap the position. -/
theorem le_matchLength_iff {d : List Byte} {pos dist maxlen : Nat} (hmax : maxlen ≤ d.length - pos) (hdist : dist ≤ pos)
    (len : Nat) :
    len ≤ matchLength d pos dist maxlen ↔ len ≤ maxlen ∧ ∀ k < len, d[pos + k]? = d[pos - dist + k]? := by
  rw [matchLength, le_commonLength_iff, List.length_take, List.length_drop, List.length_drop, min_eq_left hmax]
  constructor
  · rintro ⟨hlen, -, hagree⟩
    refine ⟨hlen, fun k hk => ?_⟩
    have hk' := hagree k hk
    rwa [List.getElem?_take_of_lt (by omega), List.getElem?_drop, List.getElem?_drop] at hk'
  · rintro ⟨hlen, hagree⟩
    refine ⟨hlen, by omega, fun k hk => ?_⟩
    rw [List.getElem?_take_of_lt (by omega), List.getElem?_drop, List.getElem?_drop, hagree k hk]

/-- A length and a distance from `lo` up to `hi`: the greatest length `f` has there, at the least distance that has
it. -/
structure LongestClosest (f : Nat → Nat) (lo hi : Nat) (m : Nat × Nat) : Prop where
  attained : f m.2 = m.1
  ge : lo ≤ m.2
  lt : m.2 < hi
  longest : ∀ j, lo ≤ j → j < hi → f j ≤ m.1
  closest : ∀ j, lo ≤ j → j < m.2 → f j < m.1

theorem forall_ge_of_succ {P : Nat → Prop} {lo hi : Nat} (hlo : P lo) (h : ∀ j, lo + 1 ≤ j → j < hi → P j) :
    ∀ j, lo ≤ j → j < hi → P j := by
  intro j hj hlt
  obtain rfl | hj := Nat.eq_or_lt_of_le hj
  · exact hlo
  · exact h j hj hlt

/-- A distance that no further one beats. -/
theorem longestClosest_first {f : Nat → Nat} {lo hi : Nat} (hlt : lo < hi)
    (h : ∀ j, lo + 1 ≤ j → j < hi → f j ≤ f lo) : LongestClosest f lo hi (f lo, lo) :=
  ⟨rfl, Nat.le_refl _, hlt, forall_ge_of_succ (Nat.le_refl _) h, fun _ hj hlt => absurd hlt (Nat.not_lt.2 hj)⟩

/-- A nearer distance that is worse. -/
theorem LongestClosest.worse {f : Nat → Nat} {lo hi : Nat} {m : Nat × Nat} (h : LongestClosest f (lo + 1) hi m)
    (hlo : f lo < m.1) : LongestClosest f lo hi m :=
  ⟨h.attained, Nat.le_of_succ_le h.ge, h.lt, forall_ge_of_succ (Nat.le_of_lt hlo) h.longest,
    forall_ge_of_succ hlo h.closest⟩

/-- The search keeps the best it was given, or finds a longer one: the longest, at the closest distance (R149). -/
theorem searchFrom_result (d : List Byte) (pos maxlen k dist : Nat) (best : Nat × Nat) :
    (searchFrom d pos maxlen k dist best = best ∧
        ∀ j, dist ≤ j → j < dist + k → matchLength d pos j maxlen ≤ best.1) ∨
      (best.1 < (searchFrom d pos maxlen k dist best).1 ∧
        LongestClosest (matchLength d pos · maxlen) dist (dist + k) (searchFrom d pos maxlen k dist best)) := by
  induction k generalizing dist best with
  | zero => exact .inl ⟨rfl, by omega⟩
  | succ k ih =>
    rw [searchFrom, show dist + (k + 1) = dist + 1 + k by omega]
    by_cases hlonger : best.1 < matchLength d pos dist maxlen
    · rw [if_pos hlonger]
      rcases ih (dist + 1) (matchLength d pos dist maxlen, dist) with ⟨heq, hall⟩ | ⟨hlt, hbest⟩
      · rw [heq]
        exact .inr ⟨hlonger, longestClosest_first (by omega) hall⟩
      · exact .inr ⟨Nat.lt_trans hlonger hlt, hbest.worse hlt⟩
    · have hle := Nat.le_of_not_lt hlonger
      rw [if_neg hlonger]
      rcases ih (dist + 1) best with ⟨heq, hall⟩ | ⟨hlt, hbest⟩
      · exact .inl ⟨heq, forall_ge_of_succ hle hall⟩
      · exact .inr ⟨hlt, hbest.worse (Nat.lt_of_le_of_lt hle hlt)⟩

/-- BestMatch is (0, 0) where nothing matches, else the longest match, the closest of the longest. -/
theorem bestMatch_result (d : List Byte) (pos : Nat) :
    (bestMatch d pos = (0, 0) ∧
        ∀ j, 1 ≤ j → j < 1 + min 8192 pos → matchLength d pos j (min 253 (d.length - pos)) = 0) ∨
      (0 < (bestMatch d pos).1 ∧
        LongestClosest (matchLength d pos · (min 253 (d.length - pos))) 1 (1 + min 8192 pos) (bestMatch d pos)) := by
  rcases searchFrom_result d pos (min 253 (d.length - pos)) (min 8192 pos) 1 (0, 0) with ⟨heq, hall⟩ | hbest
  · exact .inl ⟨heq, fun j hj hlt => Nat.le_zero.1 (hall j hj hlt)⟩
  · exact .inr hbest

/-- Settles O29: the search's result, with a match length read as agreement of the input with itself. -/
theorem bestMatchIsLongestAndClosest : Obligations.BestMatchIsLongestAndClosest := by
  intro d pos hpos m
  have hle : m.1 ≤ min 253 (d.length - pos) := searchFrom_le (Nat.zero_le _)
  have hreach {len dist : Nat} (hdist : dist ≤ pos) := le_matchLength_iff (min_le_right 253 (d.length - pos)) hdist len
  refine ⟨by omega, by omega, ?_⟩
  rcases bestMatch_result d pos with ⟨hm, hnone⟩ | ⟨hsome, hm⟩
  · obtain ⟨hlen, hdist⟩ : m.1 = 0 ∧ m.2 = 0 := Prod.ext_iff.1 hm
    refine ⟨fun _ => hdist, fun hne => absurd hlen hne, fun len dist hge h8192 hdist hlen hend hagree => ?_⟩
    have hzero := hnone dist hge (by omega)
    have hmatch := (hreach hdist).2 ⟨by omega, hagree⟩
    exact ⟨by omega, by omega⟩
  · have hge : 1 ≤ m.2 := hm.ge
    have hlt : m.2 < 1 + min 8192 pos := hm.lt
    have hback : m.2 ≤ pos := by omega
    refine ⟨fun hzero => absurd hzero (Nat.ne_of_gt hsome), fun _ => ⟨hge, by omega, hback, ?_⟩,
      fun len dist hdist h8192 hback hlen hend hagree => ?_⟩
    · exact ((hreach hback).1 (Nat.le_of_eq hm.attained.symm)).2
    · have hmatch := (hreach hback).2 ⟨by omega, hagree⟩
      refine ⟨Nat.le_trans hmatch (hm.longest dist hdist (by omega)), fun heq _ => Nat.le_of_not_lt fun hcloser => ?_⟩
      exact Nat.not_lt.2 (heq ▸ hmatch) (hm.closest dist hdist hcloser)

/-! ### O30 -/

theorem lzssChoose_lit (v : Byte) {m : Nat × Nat} (h : m.1 < 2 ∨ (m.1 = 2 ∧ 256 ≤ m.2)) :
    lzssChoose v m = .lzssLit v ∧ lzssAdvance m = 1 := ⟨if_pos h, if_pos h⟩

theorem lzssChoose_sref (v : Byte) {m : Nat × Nat} (h : 2 ≤ m.1 ∧ m.1 ≤ 5 ∧ m.2 ≤ 256 ∧ ¬ (m.1 = 2 ∧ m.2 = 256)) :
    lzssChoose v m = .lzssSref m.1 m.2 ∧ lzssAdvance m = m.1 := by
  have hlit : ¬ (m.1 < 2 ∨ (m.1 = 2 ∧ Config.lzssShortMaxDist ≤ m.2)) := by
    simp only [Config.lzssShortMaxDist]
    omega
  exact ⟨(if_neg hlit).trans (if_pos ⟨h.2.1, h.2.2.1⟩), if_neg hlit⟩

theorem lzssChoose_lref (v : Byte) {m : Nat × Nat} (h : 3 ≤ m.1 ∧ m.1 ≤ 9 ∧ (5 < m.1 ∨ 256 < m.2)) :
    lzssChoose v m = .lzssLref m.1 m.2 ∧ lzssAdvance m = m.1 := by
  have hlit : ¬ (m.1 < 2 ∨ (m.1 = 2 ∧ Config.lzssShortMaxDist ≤ m.2)) := by omega
  have hsref : ¬ (m.1 ≤ 5 ∧ m.2 ≤ Config.lzssShortMaxDist) := by
    simp only [Config.lzssShortMaxDist]
    omega
  exact ⟨(if_neg hlit).trans ((if_neg hsref).trans (if_pos h.2.1)), if_neg hlit⟩

theorem lzssChoose_xref (v : Byte) {m : Nat × Nat} (h : 10 ≤ m.1) :
    lzssChoose v m = .lzssXref m.1 m.2 ∧ lzssAdvance m = m.1 := by
  have hlit : ¬ (m.1 < 2 ∨ (m.1 = 2 ∧ Config.lzssShortMaxDist ≤ m.2)) := by omega
  exact ⟨(if_neg hlit).trans ((if_neg (by omega)).trans (if_neg (by omega))), if_neg hlit⟩

/-- Everything the choice at a position can be (R150 to R152): a literal, or one of the three references to the best
match, in range for its form. -/
inductive ChosenToken (v : Byte) (pos : Nat) (m : Nat × Nat) : Instr → Prop
  | lit (hadv : lzssAdvance m = 1) : ChosenToken v pos m (.lzssLit v)
  | copy {i : Instr} (hi : i = .lzssSref m.1 m.2 ∨ i = .lzssLref m.1 m.2 ∨ i = .lzssXref m.1 m.2)
      (hwf : i.wellFormed = true) (hdist : m.2 ≤ pos) (hadv : lzssAdvance m = m.1) : ChosenToken v pos m i

theorem lzssChoose_chosen (v : Byte) {d : List Byte} {pos : Nat} (hpos : pos < d.length) :
    ChosenToken v pos (bestMatch d pos) (lzssChoose v (bestMatch d pos)) := by
  obtain ⟨hmax, -, -, hreach, -⟩ := bestMatchIsLongestAndClosest d pos (Nat.le_of_lt hpos)
  generalize bestMatch d pos = m at *
  by_cases hlit : m.1 < 2 ∨ (m.1 = 2 ∧ 256 ≤ m.2)
  · obtain ⟨htoken, hadv⟩ := lzssChoose_lit v hlit
    exact htoken ▸ .lit hadv
  obtain ⟨hge, hle, hdist, -⟩ := hreach (by omega)
  by_cases hsref : m.1 ≤ 5 ∧ m.2 ≤ 256
  · obtain ⟨htoken, hadv⟩ := lzssChoose_sref v (m := m) (by omega)
    exact htoken ▸ .copy (.inl rfl) (decide_eq_true ⟨by omega, hsref.1, hge, hsref.2⟩) hdist hadv
  by_cases hlref : m.1 ≤ 9
  · obtain ⟨htoken, hadv⟩ := lzssChoose_lref v (m := m) (by omega)
    exact htoken ▸ .copy (.inr (.inl rfl)) (decide_eq_true ⟨by omega, hlref, hge, hle⟩) hdist hadv
  · obtain ⟨htoken, hadv⟩ := lzssChoose_xref v (m := m) (by omega)
    exact htoken ▸ .copy (.inr (.inr rfl)) (decide_eq_true ⟨by omega, by omega, hge, hle⟩) hdist hadv

/-- Settles O30: the four tests of R150, and that what they choose is in range for its form. -/
theorem lzssChosenTokenIsEncodable : Obligations.LzssChosenTokenIsEncodable := by
  refine ⟨fun v len dist => ⟨fun h => (lzssChoose_lit v h).1, fun h2 h5 hdist hne => ?_, fun h3 h9 hfar => ?_,
    fun h => (lzssChoose_xref v h).1⟩, fun d pos v hpos => ?_⟩
  · exact (lzssChoose_sref v ⟨h2, h5, hdist, hne⟩).1
  · exact (lzssChoose_lref v ⟨h3, h9, hfar⟩).1
  · have hchosen := lzssChoose_chosen v hpos
    generalize lzssChoose v (bestMatch d pos) = i at hchosen
    cases hchosen with
    | lit hadv => exact ⟨rfl, fun len dist hmem => by simp at hmem, fun _ => hadv⟩
    | copy hi hwf hdist hadv =>
      refine ⟨hwf, fun len dist hmem => ?_, fun hlit => ?_⟩
      · have hm : (len, dist) = bestMatch d pos := by
          rcases hi with rfl | rfl | rfl <;> simpa [Prod.ext_iff, eq_comm] using hmem
        rw [← hm] at hdist hadv ⊢
        exact ⟨rfl, hdist, hadv⟩
      · rcases hi with rfl | rfl | rfl <;> cases hlit

end Sys2Proof.Machine

/-! # The stream LZSS_ENC writes -/

namespace Sys2Proof.Machine

/-! ## Control words -/

/-- The control word with these bits, bit 0 first, zeros above them (R41, R147). -/
def bitsWord (bs : List Bool) : CtlWord := BitVec.ofNat 16 (bitsToNat bs)

theorem bitsToNat_testBit (bs : List Bool) (i : Nat) : (bitsToNat bs).testBit i = bs.getD i false := by
  induction bs generalizing i with
  | nil => simp [bitsToNat]
  | cons b bs ih =>
    have hb : b.toNat ≤ 1 := by cases b <;> decide
    cases i with
    | zero => cases b <;> simp [bitsToNat, Nat.testBit_zero]
    | succ i =>
      rw [Nat.testBit_succ, bitsToNat, show (b.toNat + 2 * bitsToNat bs) / 2 = bitsToNat bs by omega, ih,
        List.getD_cons_succ]

theorem bitsWord_getLsbD (bs : List Bool) {i : Nat} (hi : i < 16) : (bitsWord bs).getLsbD i = bs.getD i false := by
  rw [bitsWord, BitVec.getLsbD_ofNat, bitsToNat_testBit, decide_eq_true hi, Bool.true_and]

/-- A bit put above the bits held joins them (R146). -/
theorem bitsWord_or (bs : List Bool) (b : Bool) :
    bitsWord bs ||| (BitVec.ofNat _ b.toNat <<< bs.length) = bitsWord (bs ++ [b]) := by
  refine BitVec.eq_of_getLsbD_eq fun i hi => ?_
  rw [BitVec.getLsbD_or, BitVec.getLsbD_shiftLeft, bitsWord_getLsbD _ hi, bitsWord_getLsbD _ hi, decide_eq_true hi,
    BitVec.getLsbD_ofNat]
  rcases Nat.lt_trichotomy i bs.length with hlt | rfl | hgt
  · simp [List.getD, hlt, List.getElem?_append_left hlt]
  · cases b <;> simp [List.getD]
  · have hzero : b.toNat.testBit (i - bs.length) = false :=
      Nat.testBit_lt_two_pow (Nat.lt_of_lt_of_le (Bool.toNat_lt b)
        (Nat.pow_le_pow_right Nat.two_pos (Nat.sub_pos_of_lt hgt)))
    have hnone : (bs ++ [b])[i]? = none := List.getElem?_eq_none (by simpa using hgt)
    simp [List.getD, hzero, hnone, Nat.le_of_lt hgt]

/-- The two bytes of a control word put it together again (R40). -/
theorem ctlWord_bytes (v : CtlWord) : v.extractLsb' 8 8 ++ v.extractLsb' 0 8 = v := by
  refine BitVec.eq_of_getLsbD_eq fun i hi => ?_
  rw [BitVec.getLsbD_append]
  by_cases hlow : i < 8
  · simp [hlow]
  · simp [hlow, show i - 8 < 8 by omega, show 8 + (i - 8) = i by omega]

/-- The bits of control word number `j` of a stream. -/
def wordBits (bits : List Bool) (j : Nat) : List Bool := (bits.drop (16 * j)).take 16

theorem lzssControlWord_eq (bits : List Bool) (j : Nat) :
    lzssControlWord bits j = lowBytes Config.lzssCtlBytes (bitsWord (wordBits bits j)) := rfl

@[simp] theorem lzssControlWord_length (bits : List Bool) (j : Nat) : (lzssControlWord bits j).length = 2 := rfl

/-! ### O31 -/

/-- Below the 16th, a bit only joins the word held. -/
theorem lzssPut_bit_joins {w : LzssEncWork} (hcc : w.cc < 15) (l : Latch) (b : Bool) (s : State) :
    lzssPut l (.bit b) w s =
      .ok (s, { w with cw := w.cw ||| (BitVec.ofNat 16 b.toNat <<< w.cc), cc := w.cc + 1 }) := by
  have hcc16 : w.cc + 1 ≠ Config.lzssCtlw := by simp only [Config.lzssCtlw]; omega
  rw [lzssPut_bit, lzssRoll, if_neg hcc16]

/-- The 16th bit completes the word: it is filled in, and the next reserved. -/
theorem lzssPut_bit_reserves {w : LzssEncWork} (hcc : w.cc = 15) (l : Latch) (b : Bool) (s : State) :
    lzssPut l (.bit b) w s =
      lzssReserve l { w with cw := w.cw ||| (BitVec.ofNat 16 b.toNat <<< w.cc), cc := w.cc + 1 }
        (lzssFillSlot { w with cw := w.cw ||| (BitVec.ofNat 16 b.toNat <<< w.cc), cc := w.cc + 1 } s) := by
  have hcc16 : w.cc + 1 = Config.lzssCtlw := by rw [hcc]; rfl
  rw [lzssPut_bit, lzssRoll, if_pos hcc16]

theorem fillSlot_read (w : LzssEncWork) (s : State) (a : Nat) :
    Mem.read (lzssFillSlot w s).outMem a =
      if w.slot ≤ a ∧ a < w.slot + 2 then (lowBytes Config.lzssCtlBytes w.cw)[a - w.slot]?
      else Mem.read s.outMem a := read_writeAll _ _ _ _

/-- OUT after more output: the bytes put stand from DST_LEN on. -/
theorem putAll_read {s : State} {bs : List Byte} (h : s.dstLen.toNat + bs.length < 2 ^ 32) (a : Nat) :
    Mem.read (s.putAll bs).outMem a =
      if s.dstLen.toNat ≤ a ∧ a < s.dstLen.toNat + bs.length then bs[a - s.dstLen.toNat]?
      else Mem.read s.outMem a := by
  rw [putAll_outMem bs h, read_writeAll]

/-- A full word in its slot, and the next one's bytes reserved behind the output. -/
theorem lzssReserve_filled {s : State} {l : Latch} {w : LzssEncWork} (hroom : Room s l 2)
    (hslot : w.slot + 2 ≤ s.dstLen.toNat) :
    ∃ t, lzssReserve l w (lzssFillSlot w s) = .ok (t, { w with cw := 0, cc := 0, slot := s.dstLen.toNat }) ∧
      t.dstLen.toNat = s.dstLen.toNat + 2 ∧
      Mem.read t.outMem w.slot = some (w.cw.extractLsb' 0 8) ∧
      Mem.read t.outMem (w.slot + 1) = some (w.cw.extractLsb' 8 8) ∧
      ∀ a, a ≠ w.slot → a ≠ w.slot + 1 → a < s.dstLen.toNat → Mem.read t.outMem a = Mem.read s.outMem a := by
  have hsmall : s.dstLen.toNat + ([0, 0] : List Byte).length < 2 ^ 32 := Nat.lt_of_le_of_lt hroom.1 hroom.2
  have hbelow {a : Nat} (ha : a < s.dstLen.toNat) :
      Mem.read ((lzssFillSlot w s).putAll [0, 0]).outMem a = Mem.read (lzssFillSlot w s).outMem a := by
    rw [putAll_read (s := lzssFillSlot w s) hsmall, fillSlot_dstLen, if_neg (by omega)]
  refine ⟨(lzssFillSlot w s).putAll [0, 0], ?_, putAll_dstLen _ hsmall, ?_, ?_, fun a hlo hhi ha => ?_⟩
  · rw [lzssReserve_room (s := lzssFillSlot w s) hroom, withOutput_eq_putAll (s := lzssFillSlot w s) hsmall]
    rfl
  · rw [hbelow (by omega), fillSlot_read, if_pos (by omega), ctlBytes_eq, Nat.sub_self]
    rfl
  · rw [hbelow (by omega), fillSlot_read, if_pos (by omega), ctlBytes_eq, Nat.add_sub_cancel_left]
    rfl
  · rw [hbelow ha, fillSlot_read_other _ _ hlo hhi]

/-- Settles O31: a bit joins the word, and the 16th has it filled in and the next reserved. -/
theorem lzssWriterPutsBits : Obligations.LzssWriterPutsBits := by
  intro s l w b hok
  refine ⟨fun hcc => lzssPut_bit_joins hcc l b s, fun hcc hroom => ?_⟩
  obtain ⟨t, hput, hlen, hlo, hhi, hframe⟩ := lzssReserve_filled
    (w := { w with cw := w.cw ||| (BitVec.ofNat 16 b.toNat <<< w.cc), cc := w.cc + 1 }) hroom hok.slot_le
  rw [lzssPut_bit_reserves hcc, ← hcc]
  exact ⟨t, _, hput, rfl, hlen, ⟨_, _, hlo, hhi, ctlWord_bytes _⟩, hframe⟩

/-! ## The layout of a stream -/

@[simp] theorem controlBits_nil : controlBits [] = [] := rfl
@[simp] theorem controlBits_bit (b : Bool) (us : List LzssUnit) :
    controlBits (.bit b :: us) = b :: controlBits us := rfl
@[simp] theorem controlBits_byte (v : Byte) (us : List LzssUnit) : controlBits (.byte v :: us) = controlBits us := rfl
@[simp] theorem controlBits_append (us vs : List LzssUnit) :
    controlBits (us ++ vs) = controlBits us ++ controlBits vs := List.filterMap_append

theorem lzssLayoutFrom_append (bits : List Bool) (k : Nat) (us vs : List LzssUnit) :
    lzssLayoutFrom bits k (us ++ vs) =
      lzssLayoutFrom bits k us ++ lzssLayoutFrom bits (k + (controlBits us).length) vs := by
  induction us generalizing k with
  | nil => rfl
  | cons u us ih =>
    cases u with
    | byte v => simp [lzssLayoutFrom, ih]
    | bit b => simp [lzssLayoutFrom, ih, Nat.add_assoc, Nat.add_comm 1]

/-- A layout has the data bytes, and two bytes for each control word that begins after bit `k`. -/
theorem lzssLayoutFrom_length (bits : List Bool) (k : Nat) (us : List LzssUnit) :
    (lzssLayoutFrom bits k us).length + (controlBits us).length + 2 * (k / 16) =
      us.length + 2 * ((k + (controlBits us).length) / 16) := by
  induction us generalizing k with
  | nil => simp [lzssLayoutFrom, controlBits]
  | cons u us ih =>
    cases u with
    | byte v =>
      have hrest := ih k
      simp only [lzssLayoutFrom, controlBits_byte, List.length_cons]
      omega
    | bit b =>
      have hrest := ih (k + 1)
      simp only [lzssLayoutFrom, controlBits_bit, List.length_cons, List.length_append]
      split
      · rw [lzssControlWord_length]
        omega
      · rw [List.length_nil]
        omega

/-- The units of the tokens chosen from `pos` on, and of END (R148, R153). -/
def lzssUnitsFrom (d : List Byte) (k pos : Nat) : List LzssUnit :=
  (lzssTokensFrom d k pos ++ [Instr.lzssEnd 0]).flatMap fun i => (encode i).lzssUnits

theorem lzssUnitsFrom_end {d : List Byte} {pos : Nat} (h : d.length ≤ pos) (k : Nat) :
    lzssUnitsFrom d k pos = (encode (.lzssEnd 0)).lzssUnits := by
  cases k with
  | zero => exact List.append_nil _
  | succ k =>
    rw [lzssUnitsFrom, lzssTokensFrom, if_neg (Nat.not_lt.2 h)]
    exact List.append_nil _

theorem lzssUnitsFrom_token {d : List Byte} {pos : Nat} (h : pos < d.length) (k : Nat) :
    lzssUnitsFrom d (k + 1) pos = (encode (lzssChoose (d.getD pos 0) (bestMatch d pos))).lzssUnits ++
      lzssUnitsFrom d k (pos + lzssAdvance (bestMatch d pos)) := by
  rw [lzssUnitsFrom, lzssTokensFrom, if_pos h]
  rfl

/-- The stream before its padding. -/
def lzssStream (d : List Byte) : List Byte :=
  lzssControlWord (controlBits (lzssUnitsFrom d d.length 0)) 0 ++
    lzssLayoutFrom (controlBits (lzssUnitsFrom d d.length 0)) 0 (lzssUnitsFrom d d.length 0)

/-- A stream with its padding (R153). -/
def lzssPadded (bytes : List Byte) : List Byte := bytes ++ lzssPadding bytes.length

theorem lzssPadded_length (bytes : List Byte) :
    (lzssPadded bytes).length = bytes.length + (lzssPadding bytes.length).length := List.length_append

theorem lzssEncoded_eq (d : List Byte) : lzssEncoded d = lzssPadded (lzssStream d) := rfl

@[simp] theorem lzssPadding_length (n : Nat) : (lzssPadding n).length = (16 - n % 16) % 16 := by
  simp [lzssPadding, Config.lzssPad]

/-! ## The size of a stream (R155) -/

theorem ChosenToken.advance_pos {v : Byte} {pos : Nat} {m : Nat × Nat} {i : Instr} (h : ChosenToken v pos m i) :
    0 < lzssAdvance m := by
  cases h with
  | lit hadv => omega
  | copy hi hwf hdist hadv =>
    rw [hadv]
    rcases hi with rfl | rfl | rfl
    all_goals
      have hlen := of_decide_eq_true hwf
      omega

/-- A chosen token takes, at 8 for a data byte and 1 for a control bit, at most 9 for each input byte it stands for. -/
theorem ChosenToken.size_le {v : Byte} {pos : Nat} {m : Nat × Nat} {i : Instr} (h : ChosenToken v pos m i) :
    8 * (encode i).lzssUnits.length ≤ 9 * lzssAdvance m + 7 * (controlBits (encode i).lzssUnits).length := by
  cases h with
  | lit hadv =>
    rw [hadv]
    exact Nat.le_refl 16
  | copy hi hwf hdist hadv =>
    rw [hadv]
    rcases hi with rfl | rfl | rfl
    all_goals
      have hlen := of_decide_eq_true hwf
      simp only [encode, Encoded.lzssUnits, lzssShortUnits, lzssLongUnits, List.cons_append, List.nil_append,
        controlBits_bit, controlBits_byte, List.length_cons, List.length_nil]
      omega

theorem lzssUnitsFrom_size_le (d : List Byte) (k pos : Nat) :
    8 * (lzssUnitsFrom d k pos).length ≤
      9 * (d.length - pos) + 26 + 7 * (controlBits (lzssUnitsFrom d k pos)).length := by
  have hend : 8 * (encode (.lzssEnd 0)).lzssUnits.length =
      26 + 7 * (controlBits (encode (.lzssEnd 0)).lzssUnits).length := rfl
  induction k generalizing pos with
  | zero =>
    show 8 * (encode (.lzssEnd 0)).lzssUnits.length ≤ _ + 7 * (controlBits (encode (.lzssEnd 0)).lzssUnits).length
    omega
  | succ k ih =>
    by_cases hpos : pos < d.length
    · have htoken := (lzssChoose_chosen (d.getD pos 0) hpos).size_le
      have hadv := lzssAdvance_le hpos
      have hrest := ih (pos + lzssAdvance (bestMatch d pos))
      rw [lzssUnitsFrom_token hpos, controlBits_append, List.length_append, List.length_append]
      omega
    · rw [lzssUnitsFrom_end (Nat.le_of_not_lt hpos)]
      omega

theorem lzssEncoded_size (d : List Byte) :
    (lzssEncoded d).length % 16 = 0 ∧ (lzssEncoded d).length ≤ d.length + d.length / 8 + 32 := by
  have hlayout := lzssLayoutFrom_length (controlBits (lzssUnitsFrom d d.length 0)) 0 (lzssUnitsFrom d d.length 0)
  have hunits := lzssUnitsFrom_size_le d d.length 0
  have hstream : (lzssStream d).length = 2 + _ := List.length_append
  rw [lzssEncoded_eq, lzssPadded_length, lzssPadding_length]
  omega

end Sys2Proof.Machine

/-! # LZSS_ENC from its start to its end -/

namespace Sys2Proof.Machine

/-! ## Runs of a machine left alone -/

theorem run_step {s t : State} (h : step s = .next t) (k : Nat) :
    Host.Core.run core (k + 1) s = Host.Core.run core k t := by
  simp only [Host.Core.run]
  rw [show core.step s = .next t from h]

theorem host_of_step {s t : State} (h : step s = .next t) (hh : s.host = []) : t.host = [] :=
  ((engineKeepsHostMemories s t h).1 hh).2

theorem regionBytes_congr {s t : State} (h : t.inMem = s.inMem) (h' : t.resets = s.resets) (l : Latch) :
    regionBytes t l = regionBytes s l :=
  List.map_congr_left fun _ _ => inByte_congr h h' _

/-- A step of a machine left alone leaves the input region as it is (R43). -/
theorem regionBytes_of_step {s t : State} (h : step s = .next t) (hh : s.host = []) (l : Latch) :
    regionBytes t l = regionBytes s l := by
  obtain ⟨hkept, -⟩ := (engineKeepsHostMemories s t h).1 hh
  exact regionBytes_congr hkept.inMem hkept.resets l

/-! ## What OUT holds -/

/-- OUT is a store `m` with `bytes` written from address 0, and DST_LEN counts them. -/
structure OutHolds (m : Memory) (bytes : List Byte) (s : State) : Prop where
  len : s.dstLen.toNat = bytes.length
  read : ∀ a, Mem.read s.outMem a = Mem.read (Mem.writeAll m 0 bytes) a

theorem OutHolds.putAll {m : Memory} {bytes bs : List Byte} {s : State} (h : OutHolds m bytes s)
    (hroom : bytes.length + bs.length < 2 ^ 32) : OutHolds m (bytes ++ bs) (s.putAll bs) where
  len := by rw [putAll_dstLen bs (h.len ▸ hroom), h.len, List.length_append]
  read a := by rw [putAll_read (h.len ▸ hroom), writeAll_append, read_writeAll, Nat.zero_add, h.len, h.read]

theorem OutHolds.outCells {m : Memory} {bytes : List Byte} {s : State} (h : OutHolds m bytes s) :
    outCells s = bytes.map some := by
  have hagree : AgreeBelow bytes.length (Mem.writeAll m 0 bytes) s.outMem := fun a _ => h.read a
  have hwritten := winCells_writeAll m 0 bytes
  rw [Nat.zero_add] at hwritten
  rw [outCells_eq, h.len, hagree.winCells, hwritten]
  rfl

theorem OutHolds.above {m : Memory} {bytes : List Byte} {s : State} (h : OutHolds m bytes s) {a : Nat}
    (ha : bytes.length ≤ a) : Mem.read s.outMem a = Mem.read m a := by
  rw [h.read, read_writeAll, if_neg (by omega)]

/-! ## The writer part way through a stream -/

/-- The bits of the control word held, when `n` bits of a stream are put. -/
def heldBits (bits : List Bool) (n : Nat) : List Bool := (bits.drop (16 * (n / 16))).take (n % 16)

theorem heldBits_length {bits : List Bool} {n : Nat} (h : n ≤ bits.length) : (heldBits bits n).length = n % 16 := by
  rw [heldBits, List.length_take, List.length_drop]
  omega

theorem heldBits_put {bits : List Bool} {n : Nat} {b : Bool} (h : bits[n]? = some b) :
    (bits.drop (16 * (n / 16))).take (n % 16 + 1) = heldBits bits n ++ [b] := by
  rw [List.take_add_one, List.getElem?_drop, Nat.div_add_mod, h]
  rfl

/-- With every bit put, the word held is all there is of it. -/
theorem heldBits_all {bits : List Bool} {n : Nat} (h : bits.length ≤ n) : heldBits bits n = wordBits bits (n / 16) := by
  rw [heldBits, wordBits, List.take_of_length_le, List.take_of_length_le] <;> rw [List.length_drop] <;> omega

/-- The writer of a stream with the control bits `bits`, `n` of them put: once the word held is filled in with the bits
it will have, OUT holds `bytes` (R145 to R147). -/
structure WriterAt (m : Memory) (bits : List Bool) (n : Nat) (bytes : List Byte) (w : LzssEncWork) (s : State) :
    Prop where
  cc : w.cc = n % 16
  cw : w.cw = bitsWord (heldBits bits n)
  slot_le : w.slot + 2 ≤ bytes.length
  filled : OutHolds m bytes (lzssFillSlot { w with cw := bitsWord (wordBits bits (n / 16)) } s)

section
variable {l : Latch} {m : Memory} {bits : List Bool} {n : Nat} {bytes : List Byte} {w : LzssEncWork} {s : State}

theorem WriterAt.len (h : WriterAt m bits n bytes w s) : s.dstLen.toNat = bytes.length := h.filled.len

/-- The writer depends on OUT, DST_LEN and its own state alone. -/
theorem WriterAt.resume (h : WriterAt m bits n bytes w s) (pos : Nat) (l : Latch) (x : Work) :
    WriterAt m bits n bytes { w with pos := pos } (s.setRun l x) :=
  ⟨h.cc, h.cw, h.slot_le, h.filled.len, h.filled.read⟩

/-- The next control word's place is reserved behind the output (R145, R146). -/
theorem OutHolds.reserve (h : OutHolds m bytes s) (bits : List Bool) {n : Nat} (hn : n % 16 = 0)
    (hroom : bytes.length + 2 < 2 ^ 32) (w : LzssEncWork) :
    WriterAt m bits n (bytes ++ lzssControlWord bits (n / 16)) { w with slot := s.dstLen.toNat, cw := 0, cc := 0 }
      (s.putAll [0, 0]) where
  cc := hn.symm
  cw := by
    rw [heldBits, hn]
    rfl
  slot_le := by
    rw [List.length_append, lzssControlWord_length, h.len]
  filled := by
    have hword := h.putAll (bs := lzssControlWord bits (n / 16)) hroom
    have hword_small : s.dstLen.toNat + (lzssControlWord bits (n / 16)).length < 2 ^ 32 := h.len ▸ hroom
    have hzeros_small : s.dstLen.toNat + ([0, 0] : List Byte).length < 2 ^ 32 := h.len ▸ hroom
    refine ⟨?_, fun a => ?_⟩
    · rw [← hword.len, fillSlot_dstLen, putAll_dstLen _ hword_small, putAll_dstLen _ hzeros_small]
      rfl
    · rw [← hword.read, putAll_read hword_small, fillSlot_read, putAll_read hzeros_small, lzssControlWord_length]
      by_cases hin : s.dstLen.toNat ≤ a ∧ a < s.dstLen.toNat + 2
      · rw [if_pos hin, if_pos hin, lzssControlWord_eq]
      · rw [if_neg hin, if_neg hin]
        exact if_neg hin

/-- Filling a slot below DST_LEN and emitting a byte do not meet. -/
theorem fillSlot_putOut_read (h : w.slot + 2 ≤ s.dstLen.toNat) (v : Byte) (a : Nat) :
    Mem.read (lzssFillSlot w (s.putOut v)).outMem a = Mem.read ((lzssFillSlot w s).putOut v).outMem a := by
  rw [fillSlot_read, putOut_outMem, putOut_outMem, read_write, read_write, fillSlot_read, fillSlot_dstLen]
  split_ifs
  · omega
  · rfl
  · rfl
  · rfl

theorem WriterAt.putByte (h : WriterAt m bits n bytes w s) (hroom : bytes.length + 1 < 2 ^ 32) (v : Byte) :
    WriterAt m bits n (bytes ++ [v]) w (s.putOut v) where
  cc := h.cc
  cw := h.cw
  slot_le := by
    rw [List.length_append]
    exact Nat.le_add_right_of_le h.slot_le
  filled := by
    have hput := h.filled.putAll (bs := [v]) hroom
    exact ⟨hput.len, fun a => (fillSlot_putOut_read (h.len ▸ h.slot_le) v a).trans (hput.read a)⟩

/-- A bit put: it joins the word held, or completes it and the next is reserved. -/
theorem WriterAt.putBit (h : WriterAt m bits n bytes w s) (hcap : l.cap < 2 ^ 32) (hle : s.dstLen.toNat ≤ l.cap)
    {b : Bool} (hb : bits[n]? = some b) {t : State} {w' : LzssEncWork} (hput : lzssPut l (.bit b) w s = .ok (t, w')) :
    WriterAt m bits (n + 1) (bytes ++ lzssLayoutFrom bits n [.bit b]) w' t := by
  have hn : n < bits.length := (List.getElem?_eq_some_iff.1 hb).1
  have hcw : w.cw ||| (BitVec.ofNat 16 b.toNat <<< w.cc) =
      bitsWord ((bits.drop (16 * (n / 16))).take (n % 16 + 1)) := by
    rw [heldBits_put hb, h.cw, h.cc, ← heldBits_length (Nat.le_of_lt hn)]
    exact bitsWord_or _ b
  have hcc := h.cc
  by_cases hfull : w.cc = 15
  · have hroll : (n + 1) % 16 = 0 := by omega
    have hword : (bits.drop (16 * (n / 16))).take (n % 16 + 1) = wordBits bits (n / 16) := by
      rw [wordBits, show n % 16 + 1 = 16 by omega]
    rw [hword] at hcw
    rw [lzssPut_bit_reserves hfull, hcw] at hput
    obtain ⟨rfl, hfits, rfl⟩ := lzssReserve_ok hput
    have hroom : bytes.length + 2 < 2 ^ 32 := Nat.lt_of_le_of_lt (h.len ▸ hfits hle hcap) hcap
    rw [lzssLayoutFrom, if_pos hroll, lzssLayoutFrom, List.append_nil]
    exact OutHolds.reserve h.filled bits hroll hroom _
  · have hword : (n + 1) / 16 = n / 16 ∧ (n + 1) % 16 = n % 16 + 1 := by omega
    rw [lzssPut_bit_joins (by omega), hcw] at hput
    cases hput
    rw [lzssLayoutFrom, if_neg (by omega), lzssLayoutFrom, List.append_nil, List.append_nil]
    refine ⟨?_, ?_, h.slot_le, ?_⟩
    · rw [hword.2, ← hcc]
    · rw [heldBits, hword.1, hword.2]
    · rw [hword.1]
      exact h.filled

/-- Nothing of OUT lies below address 0. -/
theorem writerKeeps_zero {w w' : LzssEncWork} (h : w'.pos = w.pos) (s t : State) : WriterKeeps 0 w s w' t :=
  ⟨h, .inr (Nat.zero_le _), fun a ha => absurd ha (Nat.not_lt_zero a)⟩

/-- What putting units into a stream results in: the writer further on in it, or the output full. -/
inductive WriteResult (l : Latch) (m : Memory) (bits : List Bool) (n : Nat) (bytes : List Byte) (w : LzssEncWork)
    (s : State) : Except State (State × LzssEncWork) → Prop
  | fits {t : State} {w' : LzssEncWork} (hmove : PutMove l w s w' t) (hat : WriterAt m bits n bytes w' t) :
      WriteResult l m bits n bytes w s (.ok (t, w'))
  | overflows {e : State} (hno : l.cap < bytes.length) (hstop : StopsFull l 0 w s e) :
      WriteResult l m bits n bytes w s (.error e)

theorem lzssUnitBytes_single (bits : List Bool) {n cc : Nat} (hcc : cc = n % 16) (u : LzssUnit) :
    lzssUnitBytes cc [u] = (lzssLayoutFrom bits n [u]).length := by
  cases u with
  | byte v => simp [lzssUnitBytes, controlBits, lzssLayoutFrom, hcc, Nat.mod_lt]
  | bit b =>
    have hroll : 16 ≤ cc + 1 ↔ (n + 1) % 16 = 0 := by omega
    simp only [lzssUnitBytes, controlBits_bit, controlBits_nil, lzssLayoutFrom, List.length_cons, List.length_nil,
      Nat.zero_add, hroll]
    split <;> rfl

theorem lzssPut_writes (h : WriterAt m bits n bytes w s) (hcap : l.cap < 2 ^ 32) (hle : s.dstLen.toNat ≤ l.cap)
    {u : LzssUnit} {us : List LzssUnit} {rest : List Bool} (hbits : bits.drop n = controlBits (u :: us) ++ rest) :
    WriteResult l m bits (n + (controlBits [u]).length) (bytes ++ lzssLayoutFrom bits n [u]) w s
      (lzssPut l u w s) := by
  have hresult := lzssPut_result hcap (Nat.zero_le _) hle (by rw [h.cc]; exact Nat.mod_lt _ (by decide)) u
  rw [lzssUnitBytes_single bits h.cc] at hresult
  generalize hput : lzssPut l u w s = r at hresult
  cases hresult with
  | overflows hno hstop => exact .overflows (by rwa [List.length_append, ← h.len]) hstop
  | fits hroom hlen hcc hkeeps =>
    refine .fits (lzssPut_ok hput) ?_
    cases u with
    | bit b =>
      refine h.putBit hcap hle ?_ hput
      rw [← Nat.add_zero n, ← List.getElem?_drop, hbits]
      rfl
    | byte v =>
      have hfull : s.dstLen.toNat ≠ l.cap := by
        intro hfull
        rw [lzssPut, emit_full hfull] at hput
        cases hput
      rw [lzssPut, emit_room hfull] at hput
      cases hput
      exact h.putByte (by rw [← h.len]; omega) v

theorem lzssLayoutFrom_cons (bits : List Bool) (n : Nat) (u : LzssUnit) (us : List LzssUnit) :
    lzssLayoutFrom bits n (u :: us) =
      lzssLayoutFrom bits n [u] ++ lzssLayoutFrom bits (n + (controlBits [u]).length) us :=
  lzssLayoutFrom_append bits n [u] us

/-- The units that come next in a stream are put where its layout has them. -/
theorem lzssPutAll_writes (h : WriterAt m bits n bytes w s) (hcap : l.cap < 2 ^ 32) (hle : s.dstLen.toNat ≤ l.cap)
    {us : List LzssUnit} {rest : List Bool} (hbits : bits.drop n = controlBits us ++ rest) :
    WriteResult l m bits (n + (controlBits us).length) (bytes ++ lzssLayoutFrom bits n us) w s
      (lzssPutAll l us w s) := by
  induction us generalizing n bytes w s with
  | nil =>
    rw [lzssLayoutFrom, List.append_nil]
    exact .fits (.refl l w s) h
  | cons u us ih =>
    have hfirst := lzssPut_writes h hcap hle hbits
    rw [lzssPutAll, lzssLayoutFrom_cons, controlBits_cons_length, ← Nat.add_assoc, ← List.append_assoc]
    generalize lzssPut l u w s = r at hfirst
    cases hfirst with
    | overflows hno hstop => exact .overflows (by rw [List.length_append]; omega) hstop
    | @fits t w' hmove hat =>
      have hdrop : bits.drop (n + (controlBits [u]).length) = controlBits us ++ rest := by
        have hcons : controlBits (u :: us) = controlBits [u] ++ controlBits us := controlBits_append [u] us
        rw [← List.drop_drop, hbits, hcons, List.append_assoc, List.drop_left]
      have hrest := ih hat (hmove.out.len hle hcap).2 hdrop
      simp only
      generalize lzssPutAll l us w' t = r at hrest
      cases hrest with
      | fits hmove' hat' => exact .fits (hmove.trans hmove') hat'
      | overflows hno hstop => exact .overflows hno (hstop.after (writerKeeps_zero hmove.pos s t))

/-- With every bit put, filling the word held leaves the whole stream in OUT (R147). -/
theorem WriterAt.flush (h : WriterAt m bits n bytes w s) (hend : bits.length ≤ n) :
    OutHolds m bytes (lzssFillSlot w s) := by
  have hfilled := h.filled
  rwa [← heldBits_all hend, ← h.cw] at hfilled

end

/-! ## The turns of LZSS_ENC -/

/-- How LZSS_ENC leaves a machine left alone, `out` being the whole encoding: finished with it in OUT, or, where it has
no room, full (R105, R153; log 12). -/
structure EncEnded (l : Latch) (m : Memory) (out : List Byte) (t : State) : Prop where
  host : t.host = []
  idle : t.engine = .idle
  result :
    (out.length ≤ l.cap ∧ t.status = 0b00010 ∧ t.srcUsed = BitVec.ofNat 32 l.n ∧ OutHolds m out t) ∨
      (l.cap < out.length ∧ t.status = 0b00110 ∧ t.errcode = 18 ∧ t.dstLen.toNat = l.cap ∧
        ∃ pos ≤ l.n, t.errpos = BitVec.ofNat 32 (l.off + pos))

/-- LZSS_ENC on the input `d`, at a token's start: `n` of the stream's control bits and `bytes` of its bytes are put,
and at most `k` tokens come before END. -/
structure EncRunning (l : Latch) (m : Memory) (d : List Byte) (bits : List Bool) (k n : Nat) (bytes : List Byte)
    (w : LzssEncWork) (s : State) : Prop where
  host : s.host = []
  run : s.engine = .run l (.lzssEnc w)
  region : regionBytes s l = d
  pos_le : w.pos ≤ d.length
  fuel : d.length ≤ w.pos + k
  cap_lt : l.cap < 2 ^ 32
  len_le : s.dstLen.toNat ≤ l.cap
  writer : WriterAt m bits n bytes w s
  rest : bits.drop n = controlBits (lzssUnitsFrom d k w.pos)

section
variable {l : Latch} {m : Memory} {d : List Byte} {bits : List Bool} {k n : Nat} {bytes : List Byte} {w : LzssEncWork}
  {s : State}

theorem EncRunning.region_length (h : EncRunning l m d bits k n bytes w s) : d.length = l.n := by
  rw [← h.region, regionBytes_length]

theorem EncRunning.step_eq (h : EncRunning l m d bits k n bytes w s) : step s = lzssEncTurn l w s := by
  rw [step_engine h.run h.host, engineTurn, runTurn_own]

/-- The end in OutputOverflow. -/
theorem EncRunning.overflowed {e : State} (h : EncRunning l m d bits k n bytes w s) (hstep : step s = .next e)
    (hstop : StopsFull l 0 w s e) {out : List Byte} (hno : l.cap < out.length) : EncEnded l m out e := by
  obtain ⟨w', u, -, hfull, rfl⟩ := hstop
  exact ⟨host_of_step hstep h.host, rfl, .inr ⟨hno, rfl, rfl, hfull, w.pos, h.region_length ▸ h.pos_le, rfl⟩⟩

theorem inByte_region (h : regionBytes s l = d) {pos : Nat} (hpos : pos < l.n) :
    inByte s (l.off + pos) = d.getD pos 0 := by
  rw [← h, List.getD, List.getElem?_eq_getElem (by simpa using hpos)]
  simp [regionBytes, inBytes]

/-- A turn before the end of the input puts one token and goes on, or finds no room for it. -/
theorem EncRunning.token (h : EncRunning l m d bits (k + 1) n bytes w s) (hpos : w.pos < d.length) {us : List LzssUnit}
    (hus : us = (encode (lzssChoose (d.getD w.pos 0) (bestMatch d w.pos))).lzssUnits) :
    (∃ t w', step s = .next t ∧ w'.pos = w.pos + lzssAdvance (bestMatch d w.pos) ∧
        EncRunning l m d bits k (n + (controlBits us).length) (bytes ++ lzssLayoutFrom bits n us) w' t) ∨
      (l.cap < (bytes ++ lzssLayoutFrom bits n us).length ∧ ∃ e, step s = .next e ∧ StopsFull l 0 w s e) := by
  have hn : w.pos < l.n := h.region_length ▸ hpos
  have hrest := h.rest
  rw [lzssUnitsFrom_token hpos, controlBits_append, ← hus] at hrest
  have hwrites := lzssPutAll_writes h.writer h.cap_lt h.len_le hrest
  have hturn := h.step_eq
  rw [lzssEncTurn, if_pos hn] at hturn
  simp only [h.region, inByte_region h.region hn, ← hus] at hturn
  generalize lzssPutAll l us w s = r at hturn hwrites
  cases hwrites with
  | overflows hno hstop => exact .inr ⟨hno, _, hturn, hstop⟩
  | @fits t w' hmove hat =>
    have hadv_pos := (lzssChoose_chosen (d.getD w.pos 0) hpos).advance_pos
    have hfuel := h.fuel
    refine .inl ⟨_, _, hturn, rfl, host_of_step hturn h.host, rfl, ?_, lzssAdvance_le hpos, ?_, h.cap_lt,
      (hmove.out.len h.len_le h.cap_lt).2, hat.resume _ _ _, ?_⟩
    · rw [regionBytes_of_step hturn h.host, h.region]
    · show d.length ≤ w.pos + lzssAdvance (bestMatch d w.pos) + k
      omega
    · rw [← List.drop_drop, hrest, List.drop_left]

/-- The stream done, the padding ends the command, or finds no room (R153). -/
theorem EncRunning.pads (h : EncRunning l m d bits k n bytes w s) {stream : List Byte} {u : State}
    (hu : OutHolds m stream u) (hle : u.dstLen.toNat ≤ l.cap)
    (hturn : step s = afterEmit (emitAll l.cap (l.off + w.pos) (lzssPadding u.dstLen.toNat) u)
      fun v => .next (finish 0 l.n v)) :
    ∃ t, step s = .next t ∧ EncEnded l m (lzssPadded stream) t := by
  have hlen : (lzssPadded stream).length = u.dstLen.toNat + (lzssPadding u.dstLen.toNat).length := by
    rw [lzssPadded_length, hu.len]
  rcases emitAll_writes h.cap_lt (Nat.zero_le _) hle (w := w) (lzssPadding u.dstLen.toNat) with
    ⟨hroom, heq, -, -⟩ | ⟨hno, e, heq, hstop⟩
  · rw [heq] at hturn
    have hpadded : OutHolds m (lzssPadded stream) (u.putAll (lzssPadding u.dstLen.toNat)) := by
      rw [lzssPadded, ← hu.len]
      exact hu.putAll (hu.len ▸ Nat.lt_of_le_of_lt hroom h.cap_lt)
    exact ⟨_, hturn, host_of_step hturn h.host, rfl, .inl ⟨hlen ▸ hroom, rfl, rfl, hpadded.len, hpadded.read⟩⟩
  · rw [heq] at hturn
    exact ⟨e, hturn, h.overflowed hturn (hstop.after (writerKeeps_zero rfl s u)) (hlen ▸ hno)⟩

/-- The turn at the end of the input puts END, fills the last control word and pads, or finds no room. -/
theorem EncRunning.last (h : EncRunning l m d bits k n bytes w s) (hpos : d.length ≤ w.pos) :
    ∃ t, step s = .next t ∧
      EncEnded l m (lzssPadded (bytes ++ lzssLayoutFrom bits n (lzssUnitsFrom d k w.pos))) t := by
  have hrest := h.rest
  rw [lzssUnitsFrom_end hpos] at hrest ⊢
  have hwrites := lzssPutAll_writes h.writer h.cap_lt h.len_le (hrest.trans (List.append_nil _).symm)
  have hturn := h.step_eq
  rw [lzssEncTurn, if_neg (Nat.not_lt.2 (h.region_length ▸ hpos))] at hturn
  generalize lzssPutAll l (encode (.lzssEnd 0)).lzssUnits w s = r at hturn hwrites
  cases hwrites with
  | overflows hno hstop =>
    exact ⟨_, hturn, h.overflowed hturn hstop (by rw [lzssPadded_length]; omega)⟩
  | @fits t w' hmove hat =>
    have hall : bits.length ≤ n + (controlBits (encode (.lzssEnd 0)).lzssUnits).length := by
      have hlen := congrArg List.length hrest
      rw [List.length_drop] at hlen
      omega
    exact h.pads (hat.flush hall) (hmove.out.len h.len_le h.cap_lt).2 hturn

/-- Left alone, LZSS_ENC puts the tokens and END and ends. -/
theorem EncRunning.ends (h : EncRunning l m d bits k n bytes w s) :
    ∃ j t, Host.Core.run core j s = .next t ∧
      EncEnded l m (lzssPadded (bytes ++ lzssLayoutFrom bits n (lzssUnitsFrom d k w.pos))) t := by
  induction k generalizing n bytes w s with
  | zero =>
    obtain ⟨t, hstep, hended⟩ := h.last h.fuel
    exact ⟨1, t, run_step hstep 0, hended⟩
  | succ k ih =>
    by_cases hpos : w.pos < d.length
    · rw [lzssUnitsFrom_token hpos, lzssLayoutFrom_append, ← List.append_assoc]
      rcases h.token hpos rfl with ⟨t, w', hstep, hpos', hrunning⟩ | ⟨hno, e, hstep, hstop⟩
      · obtain ⟨j, t', hrun, hended⟩ := ih hrunning
        rw [hpos'] at hended
        exact ⟨j + 1, t', (run_step hstep j).trans hrun, hended⟩
      · refine ⟨1, e, run_step hstep 0, h.overflowed hstep hstop ?_⟩
        rw [lzssPadded_length, List.length_append]
        omega
    · obtain ⟨t, hstep, hended⟩ := h.last (Nat.le_of_not_lt hpos)
      exact ⟨1, t, run_step hstep 0, hended⟩

end

/-! ### O32 -/

theorem outHolds_begin (s : State) (c : Reg) : OutHolds s.outMem [] (s.begin c) := ⟨rfl, fun _ => rfl⟩

/-- With room for its first control word LZSS_ENC starts to put the tokens of its region (R145, R148). -/
theorem lzssEnc_starts {s : State} (h : ReadyToStart s) (hh : s.host = []) (hcap : 2 ≤ (latchOf s).cap) {d : List Byte}
    (hd : d = regionBytes s (latchOf s)) :
    ∃ s1 w, exec .lzssEnc s = .next s1 ∧ w.pos = 0 ∧
      EncRunning (latchOf s) s.outMem d (controlBits (lzssUnitsFrom d d.length 0)) d.length 0
        (lzssControlWord (controlBits (lzssUnitsFrom d d.length 0)) 0) w s1 := by
  have hroom : Room (s.begin (commandWord 0x02)) (latchOf s) 2 := ⟨hcap, latchOf_cap_lt s⟩
  have hsmall : (s.begin (commandWord 0x02)).dstLen.toNat + ([0, 0] : List Byte).length < 2 ^ 32 :=
    Nat.lt_of_le_of_lt hroom.1 hroom.2
  have hres := lzssReserve_room hroom { pos := 0, cw := 0, cc := 0, slot := 0 }
  rw [withOutput_eq_putAll hsmall] at hres
  have hwriter := (outHolds_begin s (commandWord 0x02)).reserve (controlBits (lzssUnitsFrom d d.length 0)) (n := 0) rfl
    (by decide) { pos := 0, cw := 0, cc := 0, slot := 0 }
  exact ⟨_, _, execLzssEnc_reserved h hres, rfl, {
    host := (putAll_host _ _).trans hh
    run := rfl
    region := (regionBytes_congr (s := s.begin _) (putAll_inMem _ _) (putAll_resets _ _) _).trans hd.symm
    pos_le := Nat.zero_le _
    fuel := Nat.le_add_left _ _
    cap_lt := hroom.2
    len_le := (putAll_dstLen [0, 0] hsmall).trans_le hroom.1
    writer := hwriter.resume 0 (latchOf s) _
    rest := rfl }⟩

/-- Without it, it ends at once (log 12). -/
theorem lzssEnc_starts_full {s : State} (h : ReadyToStart s) (hh : s.host = []) (hcap : (latchOf s).cap < 2)
    {out : List Byte} (hout : 2 ≤ out.length) :
    ∃ s1, exec .lzssEnc s = .next s1 ∧ EncEnded (latchOf s) s.outMem out s1 := by
  have hlen : (s.begin (commandWord 0x02)).dstLen.toNat = 0 := rfl
  have hno : NoRoom (s.begin (commandWord 0x02)) (latchOf s) 2 := by
    rw [NoRoom, hlen]
    omega
  have htake : (([0, 0] : List Byte).take ((latchOf s).cap - 0)).length = (latchOf s).cap := by
    rw [List.length_take]
    exact min_eq_left (Nat.le_of_lt hcap)
  refine ⟨_, execLzssEnc_unreserved h (lzssReserve_noRoom hno _), hh, rfl,
    .inr ⟨by omega, rfl, rfl, ?_, 0, Nat.zero_le _, rfl⟩⟩
  rw [overflowed, raise_dstLen, hlen, withOutput_eq_putAll (by omega), putAll_dstLen _ (by omega), htake, hlen,
    Nat.zero_add]

/-- LZSS_ENC, started on a written region and left alone. -/
theorem lzssEnc_ends {s : State} (h : ReadyToStart s) (hh : s.host = []) :
    ∃ s1 k t, exec .lzssEnc s = .next s1 ∧ s1.host = [] ∧ Host.Core.run core k s1 = .next t ∧
      EncEnded (latchOf s) s.outMem (lzssEncoded (regionBytes s (latchOf s))) t := by
  rcases Nat.lt_or_ge (latchOf s).cap 2 with hcap | hcap
  · have hout : 2 ≤ (lzssEncoded (regionBytes s (latchOf s))).length := by
      rw [lzssEncoded_eq, lzssPadded_length, lzssStream, List.length_append, lzssControlWord_length]
      omega
    obtain ⟨s1, hexec, hended⟩ := lzssEnc_starts_full h hh hcap hout
    exact ⟨s1, 0, s1, hexec, hended.host, rfl, hended⟩
  · obtain ⟨s1, w, hexec, hpos, hrunning⟩ := lzssEnc_starts h hh hcap rfl
    obtain ⟨k, t, hrun, hended⟩ := hrunning.ends
    rw [hpos] at hended
    exact ⟨s1, k, t, hexec, hrunning.host, hrun, hended⟩

/-- Settles O32: the size of the layout, and the run of LZSS_ENC to its end. -/
theorem lzssEncWholeRun : Obligations.LzssEncWholeRun := by
  refine ⟨lzssEncoded_size, ?_⟩
  rintro s out h hh rfl
  obtain ⟨s1, k, t, hexec, -, hrun, -, hidle, hresult⟩ := lzssEnc_ends h hh
  refine ⟨fun hroom => ?fits, fun hno => ?full⟩
  case fits =>
    rcases hresult with ⟨-, hstatus, hused, hout⟩ | ⟨hno, -⟩
    · have hused_eq : t.srcUsed = s.srcLen := hused.trans (BitVec.eq_of_toNat_eq (by simp [latchOf]))
      exact ⟨s1, k, t, hexec, hrun, hidle, hstatus, hused_eq, hout.len, hout.outCells, fun a => hout.above⟩
    · exact absurd hroom (Nat.not_le.2 hno)
  case full =>
    rcases hresult with ⟨hroom, -⟩ | ⟨-, hstatus, hcode, hlen, pos, hpos, herrpos⟩
    · exact absurd hroom (Nat.not_le.2 hno)
    · have hregion : (latchOf s).off + (latchOf s).n ≤ Config.inCap := h.region
      have hin := inCap_lt
      have herrpos_nat : t.errpos.toNat = (latchOf s).off + pos := by
        rw [herrpos, BitVec.toNat_ofNat]
        exact Nat.mod_eq_of_lt (by omega)
      exact ⟨s1, k, t, hexec, hrun, hidle, hstatus, hcode, BitVec.eq_of_toNat_eq hlen,
        herrpos_nat ▸ Nat.le_add_right _ _, herrpos_nat ▸ Nat.add_le_add_left hpos _⟩

end Sys2Proof.Machine

/-! # The round trip -/

namespace Sys2Proof.Machine

/-! ## A machine left alone ends in one state -/

theorem run_succ_next {k : Nat} {s t : State} (h : Host.Core.run core (k + 1) s = .next t) :
    ∃ u, step s = .next u ∧ Host.Core.run core k u = .next t := by
  cases hstep : step s with
  | next u => exact ⟨u, rfl, (run_step hstep k).symm.trans h⟩
  | fault r =>
    simp only [Host.Core.run, show core.step s = .fault r from hstep] at h
    cases h
  | refused r =>
    simp only [Host.Core.run, show core.step s = .refused r from hstep] at h
    cases h

theorem run_add {j : Nat} {s t : State} (h : Host.Core.run core j s = .next t) (k : Nat) :
    Host.Core.run core (j + k) s = Host.Core.run core k t := by
  induction j generalizing s with
  | zero =>
    cases h
    rw [Nat.zero_add]
  | succ j ih =>
    obtain ⟨u, hstep, hrun⟩ := run_succ_next h
    rw [Nat.add_right_comm, run_step hstep, ih hrun]

theorem host_of_run {k : Nat} {s t : State} (h : Host.Core.run core k s = .next t) (hh : s.host = []) :
    t.host = [] := by
  induction k generalizing s with
  | zero =>
    cases h
    exact hh
  | succ k ih =>
    obtain ⟨u, hstep, hrun⟩ := run_succ_next h
    exact ih hrun (host_of_step hstep hh)

theorem run_idle {s : State} (he : s.engine = .idle) (hh : s.host = []) (k : Nat) :
    Host.Core.run core k s = .next s := by
  induction k with
  | zero => rfl
  | succ k ih => rw [run_step (step_idle he hh), ih]

theorem run_idle_unique {j k : Nat} {s t u : State} (hh : s.host = []) (ht : Host.Core.run core j s = .next t)
    (hu : Host.Core.run core k s = .next u) (hidle_t : t.engine = .idle) (hidle_u : u.engine = .idle) : t = u := by
  have hboth : Host.Core.run core (j + k) s = Host.Core.run core (k + j) s := by rw [Nat.add_comm]
  rw [run_add ht, run_add hu, run_idle hidle_t (host_of_run ht hh), run_idle hidle_u (host_of_run hu hh)] at hboth
  exact Host.Outcome.next.inj hboth

/-! ## The reader part way through a stream -/

/-- The reader in a stream with the control bits `bits`, `n` of them and `rd` bytes of the stream taken: it holds the
rest of the control word, which is loaded when the one before is used up (R120 to R122). -/
structure ReaderAt (l : Latch) (bits : List Bool) (n rd : Nat) (w : LzssDecWork) : Prop where
  ip : w.ip = l.off + rd
  bitcnt : w.bitcnt = 16 - n % 16
  bitbuf : w.bitbuf = bitsWord (wordBits bits (n / 16)) >>> (n % 16)

section
variable {s : State} {l : Latch} {bits : List Bool} {n rd : Nat} {w : LzssDecWork}

/-- The byte that stands next in the region. -/
theorem inByte_of_drop {x : Byte} {xs : List Byte} (h : (regionBytes s l).drop rd = x :: xs) :
    l.off + rd < regionEnd l ∧ inByte s (l.off + rd) = x ∧ (regionBytes s l).drop (rd + 1) = xs := by
  have hrd : rd < l.n := by
    have hlen := congrArg List.length h
    rw [List.length_drop, regionBytes_length, List.length_cons] at hlen
    omega
  have hbyte : (regionBytes s l)[rd]? = some x := by rw [← Nat.add_zero rd, ← List.getElem?_drop, h]; rfl
  refine ⟨Nat.add_lt_add_left hrd _, ?_, ?_⟩
  · rw [inByte_region rfl hrd, List.getD, hbyte]
    rfl
  · rw [← List.drop_drop, h]
    rfl

/-- The control word that stands next is loaded (R121). -/
theorem lzssRefill_readerAt {xs : List Byte} (hip : w.ip = l.off + rd) (hn : n % 16 = 0)
    (h : (regionBytes s l).drop rd = lzssControlWord bits (n / 16) ++ xs) :
    ReaderAt l bits n (rd + 2) (lzssRefill s l w) ∧ (regionBytes s l).drop (rd + 2) = xs := by
  obtain ⟨-, hlo, hdrop⟩ := inByte_of_drop h
  obtain ⟨hend, hhi, hdrop⟩ := inByte_of_drop hdrop
  have hword : inByte s (w.ip + 1) ++ inByte s w.ip = bitsWord (wordBits bits (n / 16)) := by
    rw [hip, Nat.add_assoc, hhi, hlo]
    exact ctlWord_bytes _
  rw [lzssRefill_word (by rw [hip]; exact hend), hword]
  refine ⟨⟨by rw [hip]; rfl, by rw [hn], by rw [hn]; rfl⟩, hdrop⟩

/-- The control bit taken is the stream's next. -/
theorem ReaderAt.getBit_fst (h : ReaderAt l bits n rd w) {b : Bool} (hb : bits[n]? = some b) :
    (lzssGetBit s l w).1 = b := by
  have hlt : n % 16 < 16 := Nat.mod_lt _ (by decide)
  show w.bitbuf.getLsbD 0 = b
  rw [h.bitbuf, BitVec.getLsbD_ushiftRight, Nat.add_zero, bitsWord_getLsbD _ hlt, wordBits, List.getD,
    List.getElem?_take_of_lt hlt, List.getElem?_drop, Nat.div_add_mod, hb]
  rfl

/-- After it the reader stands one bit on, and past the next control word where it was the 16th. -/
theorem ReaderAt.getBit_snd (h : ReaderAt l bits n rd w) {xs : List Byte} {b : Bool}
    (hdrop : (regionBytes s l).drop rd = lzssLayoutFrom bits n [.bit b] ++ xs) :
    ReaderAt l bits (n + 1) (rd + (lzssLayoutFrom bits n [.bit b]).length) (lzssGetBit s l w).2 ∧
      (regionBytes s l).drop (rd + (lzssLayoutFrom bits n [.bit b]).length) = xs := by
  have hcnt := h.bitcnt
  rw [lzssLayoutFrom, lzssLayoutFrom, List.append_nil] at hdrop ⊢
  by_cases hroll : (n + 1) % 16 = 0
  · have hlast : w.bitcnt - 1 = 0 := by omega
    rw [if_pos hroll] at hdrop ⊢
    have hload := lzssRefill_readerAt (w := { w with bitbuf := w.bitbuf >>> 1, bitcnt := w.bitcnt - 1 }) h.ip
      hroll hdrop
    simpa [lzssGetBit, Config.lzssEagerRefill, hlast] using hload
  · have hmore : w.bitcnt - 1 ≠ 0 := by omega
    have hword : (n + 1) / 16 = n / 16 ∧ (n + 1) % 16 = n % 16 + 1 := by omega
    rw [if_neg hroll] at hdrop ⊢
    have hstay : (lzssGetBit s l w).2 = { w with bitbuf := w.bitbuf >>> 1, bitcnt := w.bitcnt - 1 } := by
      simp [lzssGetBit, Config.lzssEagerRefill, hmore]
    rw [hstay]
    refine ⟨⟨h.ip, ?_, ?_⟩, hdrop⟩
    · rw [hword.2, hcnt, Nat.sub_sub]
    · rw [hword.1, hword.2, h.bitbuf, BitVec.shiftRight_add]

/-- The units laid out next are read, and the reader stands past them: the mirror of `lzssPutAll_writes` (R154). -/
theorem ReaderAt.reads (h : ReaderAt l bits n rd w) {us : List LzssUnit} {rest : List Bool} {xs : List Byte}
    (hbits : bits.drop n = controlBits us ++ rest)
    (hdrop : (regionBytes s l).drop rd = lzssLayoutFrom bits n us ++ xs) :
    ∃ w', lzssReads s l us w = some w' ∧
      ReaderAt l bits (n + (controlBits us).length) (rd + (lzssLayoutFrom bits n us).length) w' := by
  induction us generalizing n rd w with
  | nil => exact ⟨w, rfl, h⟩
  | cons u us ih =>
    rw [lzssLayoutFrom_cons, List.append_assoc] at hdrop
    rw [lzssLayoutFrom_cons, List.length_append, ← Nat.add_assoc, controlBits_cons_length, ← Nat.add_assoc]
    cases u with
    | bit b =>
      have hb : bits[n]? = some b := by
        rw [← Nat.add_zero n, ← List.getElem?_drop, hbits]
        rfl
      have htail : bits.drop (n + 1) = controlBits us ++ rest := by
        rw [← List.drop_drop, hbits]
        rfl
      have hcnt : w.bitcnt ≠ 0 := by
        rw [h.bitcnt]
        omega
      obtain ⟨hat, hdrop⟩ := h.getBit_snd hdrop
      obtain ⟨w', hreads, hat'⟩ := ih hat htail hdrop
      exact ⟨w', lzssReads_bit_iff.2 ⟨⟨hcnt, h.getBit_fst hb⟩, hreads⟩, hat'⟩
    | byte v =>
      obtain ⟨hend, hbyte, hdrop⟩ := inByte_of_drop hdrop
      have hnext : ReaderAt l bits n (rd + 1) { w with ip := w.ip + 1 } :=
        ⟨congrArg (· + 1) h.ip, h.bitcnt, h.bitbuf⟩
      obtain ⟨w', hreads, hat'⟩ := ih hnext hbits hdrop
      refine ⟨w', lzssReads_byte_iff.2 ⟨?_, hreads⟩, hat'⟩
      rw [h.ip]
      exact ⟨hend, hbyte⟩

end

/-! ## LZSS_DEC on what LZSS_ENC wrote -/

/-- A reference to bytes that the list itself repeats gives the list's own bytes. -/
theorem copyBack_take {α : Type} {d : List α} {dist : Nat} (hpos : 1 ≤ dist) (len : Nat) {pos : Nat}
    (hdist : dist ≤ pos) (hend : pos + len ≤ d.length) (h : ∀ k < len, d[pos + k]? = d[pos - dist + k]?) :
    copyBack dist len (d.take pos) = d.take (pos + len) := by
  induction len generalizing pos with
  | zero => rfl
  | succ len ih =>
    have hlt : pos < d.length := by omega
    have hnext : d[pos]? = some d[pos] := List.getElem?_eq_getElem hlt
    have hsource : (d.take pos)[(d.take pos).length - dist]? = some d[pos] := by
      rw [List.length_take, min_eq_left (Nat.le_of_lt hlt), List.getElem?_take_of_lt (by omega), ← hnext]
      exact (h 0 (Nat.succ_pos _)).symm
    have htake : d.take pos ++ [d[pos]] = d.take (pos + 1) := by rw [List.take_add_one, hnext]; rfl
    rw [copyBack_succ hsource, htake, ih (by omega) (by omega) fun k hk => ?_]
    · congr 1
      omega
    · have hshift := h (k + 1) (Nat.succ_lt_succ hk)
      rwa [show pos + (k + 1) = pos + 1 + k by omega, show pos - dist + (k + 1) = pos + 1 - dist + k by omega] at hshift

theorem ChosenToken.isToken {v : Byte} {pos : Nat} {m : Nat × Nat} {i : Instr} (h : ChosenToken v pos m i) :
    IsLzssToken i := by
  cases h with
  | lit hadv => exact ⟨⟨_, rfl⟩, rfl⟩
  | copy hi hwf hdist hadv => rcases hi with rfl | rfl | rfl <;> exact ⟨⟨_, rfl⟩, hwf⟩

theorem IsLzssToken.units_ne_nil {i : Instr} (h : IsLzssToken i) : (encode i).lzssUnits ≠ [] := by
  obtain ⟨⟨us, hus⟩, hwf⟩ := h
  have htoken := lzssWant_of_encode hwf hus
  rw [hus]
  rintro rfl
  cases htoken

/-- A token keeps the invariant of the working state. -/
theorem lzssToken_keeps {i : Instr} (hi : IsLzssToken i) {s t : State} {l : Latch} {w : LzssDecWork}
    (hrun : s.engine = .run l (.lzssDec w)) (hok : LzssDecOk s l w) (h : exec i s = .next t) : WorkInv t := by
  rcases lzssToken_slideOrEnd hi hrun hok h with ⟨m, w', hunslid, -, hslide⟩ | ⟨hidle, -⟩
  · exact hunslid.slide hslide
  · exact workInv_of_idle hidle

/-- The token chosen at `pos`, run on the input's first `pos` bytes, gives those it stands for as well (R154). -/
theorem ChosenToken.extends_history {d : List Byte} {pos : Nat} (hpos : pos < d.length) {i : Instr}
    (hi : ChosenToken (d.getD pos 0) pos (bestMatch d pos) i) {s : State} {l : Latch} {w : LzssDecWork}
    (he : s.engine = .run l (.lzssDec w)) (hok : LzssDecOk s l w) (hhist : lzssHistory s w = (d.map some).take pos)
    (hcap : d.length ≤ l.cap) :
    ∃ t w', exec i s = .next t ∧ t.engine = .run l (.lzssDec w') ∧
      lzssHistory t w' = (d.map some).take (pos + lzssAdvance (bestMatch d pos)) ∧
      w'.ip = w.ip ∧ w'.bitbuf = w.bitbuf ∧ w'.bitcnt = w.bitcnt := by
  have hlen : s.dstLen.toNat + w.wp = pos := by
    have hcount := congrArg List.length hhist
    rwa [lzssHistory, List.length_append, outCells_length, winCells_length, List.length_take, List.length_map,
      min_eq_left (Nat.le_of_lt hpos)] at hcount
  have hadv_le := lzssAdvance_le hpos
  have hroom {k : Nat} (hk : pos + k ≤ d.length) : w.wp + k ≤ 0x4000 ∨ Room s l 0x2000 := by
    have hcap_lt := hok.cap_lt
    rw [Room]
    omega
  cases hi with
  | lit hadv =>
    have hnext : (d.map some)[pos]? = some (some (d.getD pos 0)) := by
      rw [List.getElem?_map, List.getD, List.getElem?_eq_getElem hpos]
      rfl
    rw [hadv] at hadv_le ⊢
    rw [List.take_add_one, hnext, ← hhist]
    exact lzssLit_history he hok (hroom hadv_le) _
  | copy hi hwf hdist hadv =>
    obtain ⟨hmax, hpos1, hdist_max⟩ := wellFormed_copy hwf hi
    obtain ⟨-, -, hzero, hmatch, -⟩ := bestMatchIsLongestAndClosest d pos (Nat.le_of_lt hpos)
    obtain ⟨-, -, -, hagree⟩ := hmatch fun h => absurd (hzero h) (Nat.ne_of_gt hpos1)
    rw [hadv] at hadv_le ⊢
    rw [exec_lzssCopy he hi, ← copyBack_take hpos1 _ hdist (by rwa [List.length_map])
      (fun k hk => by rw [List.getElem?_map, List.getElem?_map, hagree k hk]), ← hhist]
    exact lzssCopy_history hok hmax hpos1 hdist_max (by rw [hok.total_eq, hlen]; exact hdist) (hroom hadv_le)

/-- LZSS_DEC at a token's start, the input's first `pos` bytes decoded and the stream of the others next: at most `k`
tokens come before END. -/
structure DecRunning (l : Latch) (d : List Byte) (bits : List Bool) (k n rd pos : Nat) (w : LzssDecWork) (s : State) :
    Prop where
  host : s.host = []
  run : s.engine = .run l (.lzssDec w)
  ok : LzssDecOk s l w
  room : d.length ≤ l.cap
  pos_le : pos ≤ d.length
  fuel : d.length ≤ pos + k
  history : lzssHistory s w = (d.map some).take pos
  reader : ReaderAt l bits n rd w
  rest : bits.drop n = controlBits (lzssUnitsFrom d k pos)
  input : ∃ xs, (regionBytes s l).drop rd = lzssLayoutFrom bits n (lzssUnitsFrom d k pos) ++ xs

section
variable {l : Latch} {d : List Byte} {bits : List Bool} {k n rd pos : Nat} {w : LzssDecWork} {s : State}

/-- A step reads the units that come next and runs their token. -/
theorem DecRunning.step_eq (h : DecRunning l d bits k n rd pos w s) {i : Instr} (hi : IsLzssToken i)
    {vs : List LzssUnit} (hunits : lzssUnitsFrom d k pos = (encode i).lzssUnits ++ vs) :
    ∃ w', step s = exec i (s.setRun l (.lzssDec w')) ∧ LzssDecOk (s.setRun l (.lzssDec w')) l w' ∧
      lzssHistory (s.setRun l (.lzssDec w')) w' = lzssHistory s w ∧
      ReaderAt l bits (n + (controlBits (encode i).lzssUnits).length)
        (rd + (lzssLayoutFrom bits n (encode i).lzssUnits).length) w' := by
  have hrest := h.rest
  obtain ⟨xs, hdrop⟩ := h.input
  rw [hunits, controlBits_append] at hrest
  rw [hunits, lzssLayoutFrom_append, List.append_assoc] at hdrop
  obtain ⟨w', hreads, hat⟩ := h.reader.reads hrest hdrop
  have hmove := (lzssFetch_token ((lzssFetchIsDecoding s l w w' i).2 ⟨hi.wf, hi.units_ne_nil, hreads⟩)).2
  refine ⟨w', lzssStepRunsTheToken s l w w' i h.host h.run hi.wf hi.units_ne_nil hreads, h.ok.read hmove, ?_, hat⟩
  rw [lzssHistory, lzssHistory, hmove.wp]
  rfl

/-- A step before the last runs the token chosen at `pos`. -/
theorem DecRunning.token (h : DecRunning l d bits (k + 1) n rd pos w s) (hpos : pos < d.length) :
    ∃ t w' n' rd', step s = .next t ∧
      DecRunning l d bits k n' rd' (pos + lzssAdvance (bestMatch d pos)) w' t := by
  have hchosen := lzssChoose_chosen (d.getD pos 0) hpos
  have hunits := lzssUnitsFrom_token hpos k
  generalize lzssChoose (d.getD pos 0) (bestMatch d pos) = i at hchosen hunits
  obtain ⟨w1, hstep, hok, hhist, hreader⟩ := h.step_eq hchosen.isToken hunits
  obtain ⟨t, w', hexec, hrun, hhist', hip, hbuf, hcnt⟩ :=
    hchosen.extends_history hpos rfl hok (hhist.trans h.history) h.room
  have hnext : step s = .next t := hstep.trans hexec
  have hrest := h.rest
  obtain ⟨xs, hdrop⟩ := h.input
  rw [hunits, controlBits_append] at hrest
  rw [hunits, lzssLayoutFrom_append, List.append_assoc] at hdrop
  refine ⟨t, w', _, _, hnext, {
    host := host_of_step hnext h.host
    run := hrun
    ok := lzssToken_keeps hchosen.isToken rfl hok hexec l _ hrun
    room := h.room
    pos_le := lzssAdvance_le hpos
    fuel := ?_
    history := hhist'
    reader := ⟨hip.trans hreader.ip, hcnt.trans hreader.bitcnt, hbuf.trans hreader.bitbuf⟩
    rest := ?_
    input := ⟨xs, ?_⟩ }⟩
  · have hadv := hchosen.advance_pos
    have hfuel := h.fuel
    omega
  · rw [← List.drop_drop, hrest, List.drop_left]
  · rw [regionBytes_of_step hnext h.host, ← List.drop_drop, hdrop, List.drop_left]

/-- The last step runs END. -/
theorem DecRunning.last (h : DecRunning l d bits k n rd pos w s) (hpos : d.length ≤ pos) :
    ∃ t, step s = .next t ∧ t.engine = .idle ∧ t.status = 0b00010 ∧ outCells t = d.map some := by
  have hunits : lzssUnitsFrom d k pos = (encode (.lzssEnd 0)).lzssUnits ++ [] :=
    (lzssUnitsFrom_end hpos k).trans (List.append_nil _).symm
  obtain ⟨w', hstep, hok, hhist, -⟩ := h.step_eq ⟨⟨_, rfl⟩, rfl⟩ hunits
  have hall : lzssHistory (s.setRun l (.lzssDec w')) w' = d.map some := by
    rw [hhist, h.history, List.take_of_length_le (by rwa [List.length_map])]
  have hroom : Room (s.setRun l (.lzssDec w')) l w'.wp := by
    have hcount := congrArg List.length hall
    rw [lzssHistory, List.length_append, outCells_length, winCells_length, List.length_map] at hcount
    exact ⟨hcount.trans_le h.room, hok.cap_lt⟩
  obtain ⟨t, hexec, hout, -, -, hstatus, hidle⟩ :=
    (lzssSegAndEndResults (s.setRun l (.lzssDec w')) l w' 0 rfl).2 hok hroom
  exact ⟨t, hstep.trans hexec, hidle, hstatus, hout.trans hall⟩

/-- Left alone, LZSS_DEC runs the tokens and END: OUT holds the input. -/
theorem DecRunning.ends (h : DecRunning l d bits k n rd pos w s) :
    ∃ j t, Host.Core.run core j s = .next t ∧ t.engine = .idle ∧ t.status = 0b00010 ∧ outCells t = d.map some := by
  induction k generalizing n rd pos w s with
  | zero =>
    obtain ⟨t, hstep, hended⟩ := h.last h.fuel
    exact ⟨1, t, run_step hstep 0, hended⟩
  | succ k ih =>
    by_cases hpos : pos < d.length
    · obtain ⟨t, w', n', rd', hstep, hrunning⟩ := h.token hpos
      obtain ⟨j, t', hrun, hended⟩ := ih hrunning
      exact ⟨j + 1, t', (run_step hstep j).trans hrun, hended⟩
    · obtain ⟨t, hstep, hended⟩ := h.last (Nat.le_of_not_lt hpos)
      exact ⟨1, t, run_step hstep 0, hended⟩

end

/-- The reader and the window before the first control word is loaded (R120, R124). -/
def lzssDecInit (u : State) : LzssDecWork :=
  { ip := u.srcOff.toNat, bitbuf := Config.unspecBitbuf (u.starts + 1), bitcnt := 0, wp := 0, total := 0 }

theorem execLzssDec_init {u : State} (h : ReadyToStart u) :
    exec .lzssDec u =
      .next ((u.begin 0x01).setRun (latchOf u) (.lzssDec (lzssRefill (u.begin 0x01) (latchOf u) (lzssDecInit u)))) :=
  execLzssDec_ready h

/-- LZSS_DEC, started on the whole encoding of `d` with room for `d`. -/
theorem execLzssDec_starts {u : State} (h : ReadyToStart u) (hh : u.host = []) {d : List Byte}
    (hregion : regionBytes u (latchOf u) = lzssEncoded d) (hcap : d.length ≤ (latchOf u).cap) :
    ∃ u1 w, exec .lzssDec u = .next u1 ∧
      DecRunning (latchOf u) d (controlBits (lzssUnitsFrom d d.length 0)) d.length 0 2 0 w u1 := by
  have hstream : (regionBytes (u.begin 0x01) (latchOf u)).drop 0 = _ := hregion
  rw [lzssEncoded_eq, lzssPadded, lzssStream, List.append_assoc] at hstream
  have hreader := lzssRefill_readerAt (w := lzssDecInit u) (n := 0) rfl rfl hstream
  have hmove := lzssRefill_move (u.begin 0x01) (latchOf u) (lzssDecInit u)
  have hok := LzssDecOk.start (u := u.begin 0x01) (hmove.keeps ⟨Nat.zero_le _, Nat.le_refl _, Nat.le_add_right _ _⟩)
    hmove.wp hmove.total rfl (latchOf_cap_lt u)
  refine ⟨_, _, execLzssDec_init h, {
    host := hh
    run := rfl
    ok := WorkOk.congr (s := u.begin 0x01) (w := .lzssDec _) rfl rfl hok
    room := hcap
    pos_le := Nat.zero_le _
    fuel := Nat.le_add_left _ _
    history := ?_
    reader := hreader.1
    rest := rfl
    input := ⟨_, hreader.2⟩ }⟩
  rw [lzssHistory, hmove.wp]
  rfl

/-! ### O33 -/

/-- The bytes of a written region, cell by cell. -/
theorem regionBytes_map_some {s : State} {l : Latch} (h : ∀ k < l.n, (Mem.read s.inMem (l.off + k)).isSome = true) :
    (regionBytes s l).map some = (List.range l.n).map fun k => Mem.read s.inMem (l.off + k) := by
  rw [regionBytes, inBytes, List.map_map]
  refine List.map_congr_left fun k hk => ?_
  obtain ⟨v, hv⟩ := Option.isSome_iff_exists.1 (h k (List.mem_range.1 hk))
  rw [Function.comp_apply, inByte_of_written hv, hv]

/-- A region that holds what an OUT does. -/
theorem regionBytes_of_outCells {u t : State} {out : List Byte} (h : ReadyToStart u) (hlen : u.srcLen = t.dstLen)
    (hcells : ∀ a < t.dstLen.toNat, Mem.read u.inMem (u.srcOff.toNat + a) = Mem.read t.outMem a)
    (hout : outCells t = out.map some) : regionBytes u (latchOf u) = out := by
  refine List.map_injective_iff.2 (Option.some_injective _) ?_
  rw [regionBytes_map_some h.written, ← hout, outCells, ← hlen]
  exact List.map_congr_left fun a ha => hcells a (hlen ▸ List.mem_range.1 ha)

/-- An OUT that holds a region's bytes. -/
theorem outCells_of_regionBytes {s v : State} (h : ReadyToStart s)
    (hout : outCells v = (regionBytes s (latchOf s)).map some) :
    v.dstLen = s.srcLen ∧
      ∀ a < s.srcLen.toNat, Mem.read v.outMem a = Mem.read s.inMem (s.srcOff.toNat + a) := by
  have hlen : v.dstLen.toNat = s.srcLen.toNat := by
    rw [← outCells_length, hout, List.length_map, regionBytes_length]
    rfl
  refine ⟨BitVec.eq_of_toNat_eq hlen, fun a ha => ?_⟩
  have hcell := winCells_getElem? v.outMem (hlen ▸ ha)
  rw [← outCells_eq, hout, regionBytes_map_some h.written, List.getElem?_map,
    List.getElem?_range (n := (latchOf s).n) ha] at hcell
  exact (Option.some.inj hcell).symm

/-- Settles O33: LZSS_ENC leaves the layout of its tokens (O32), and the reader meets each unit where the layout has
it, so that LZSS_DEC runs the same tokens. -/
theorem lzssRoundTrip : Obligations.LzssRoundTrip := by
  intro s s1 t u u1 k hs hsh hexec hrun hidle hstatus hu huh _ hlen hcells hcap hexec'
  obtain ⟨s1', k', t', hexec1, hhost1, hrun', -, hidle', hresult⟩ := lzssEnc_ends hs hsh
  obtain rfl : s1 = s1' := Host.Outcome.next.inj (hexec.symm.trans hexec1)
  obtain rfl : t = t' := run_idle_unique hhost1 hrun hrun' hidle hidle'
  rcases hresult with ⟨-, -, -, hholds⟩ | ⟨-, hfaulted, -⟩
  case inr => exact absurd (hstatus.symm.trans hfaulted) (by decide)
  have hregion := regionBytes_of_outCells hu hlen hcells hholds.outCells
  obtain ⟨u1', w, hexec1', hrunning⟩ := execLzssDec_starts hu huh hregion (by rw [regionBytes_length]; exact hcap)
  obtain rfl : u1 = u1' := Host.Outcome.next.inj (hexec'.symm.trans hexec1')
  obtain ⟨j, v, hrunv, hidlev, hstatusv, houtv⟩ := hrunning.ends
  exact ⟨j, v, hrunv, hidlev, hstatusv, outCells_of_regionBytes hs houtv⟩

end Sys2Proof.Machine

/-! PROOFS. The family of `42_lzw.md`: what a step of LZW_DEC and each of its codes do, the code stream LZW_ENC writes,
the round trip of the two, and that no step from a legal state meets a token its command cannot fetch. -/

/-! # LZW_DEC, code by code -/

namespace Sys2Proof.Machine

section
variable {s : State} {l : Latch} {w : LzwDecWork}

/-! ### O10 -/

/-- The size the decoder's width is tested against is the encoder's `next`, one ahead of its own once there is a
previous code (R164). -/
theorem lzwDecWidth_eq (w : LzwDecWork) :
    lzwDecWidth w = lzwWiden (if w.prev = none then 257 + w.dict.length else 257 + w.dict.length + 1) w.w w.maxW := by
  rw [lzwDecWidth]
  cases w.prev <;> rfl

/-- A whole code that names something is read at the width of R164 and runs. -/
theorem step_lzwCode (hh : s.host = []) (he : s.engine = .run l (.lzwDec w)) (hbits : w.p + lzwDecWidth w ≤ 8 * l.n)
    {i : Instr} (hi : decodeLzw (lzwCtxOf w) (inField s l w.p (lzwDecWidth w)) = .ok i) :
    step s = exec i (s.setRun l (.lzwDec { w with p := w.p + lzwDecWidth w, w := lzwDecWidth w })) := by
  have hin : ¬ regionBits l < w.p + lzwDecWidth w := Nat.not_lt.2 hbits
  rw [step_engine he hh, engineTurn, lzwDecTurn]
  simp only [if_neg hin, hi, runTurn_instr]

/-- Settles O10: the width is the one `lzwDecWidth` finds. -/
theorem lzwStepRunsTheCode : Obligations.LzwStepRunsTheCode := by
  rintro s l w i size wd hh he rfl rfl hbits hi
  rw [← lzwWiden_eq, ← lzwDecWidth_eq] at hbits hi ⊢
  exact step_lzwCode hh he hbits hi

/-! ### O36 -/

/-- Fewer bits than a code's width are no code (R171). -/
theorem step_lzwEnd (hh : s.host = []) (he : s.engine = .run l (.lzwDec w)) (hbits : 8 * l.n < w.p + lzwDecWidth w) :
    step s = .next (finish 0 ((w.p + 7) / 8) s) := by
  have hout : regionBits l < w.p + lzwDecWidth w := hbits
  rw [step_engine he hh, engineTurn, lzwDecTurn]
  simp only [if_pos hout, runTurn_own, bytesOfBits]

/-- A whole code that names nothing (R169). -/
theorem step_lzwBadCode (hh : s.host = []) (he : s.engine = .run l (.lzwDec w))
    (hbits : w.p + lzwDecWidth w ≤ 8 * l.n) {err : DecodeError}
    (hbad : decodeLzw (lzwCtxOf w) (inField s l w.p (lzwDecWidth w)) = .error err) :
    step s = .next (raise .lzwBadCode (l.off + (w.p + lzwDecWidth w - 1) / 8) s) := by
  have hin : ¬ regionBits l < w.p + lzwDecWidth w := Nat.not_lt.2 hbits
  rw [step_engine he hh, engineTurn, lzwDecTurn]
  simp only [if_neg hin, hbad, runTurn_own, bitIp]

/-- Settles O36: the two tests of a turn that runs no code. -/
theorem lzwEndAndBadCode : Obligations.LzwEndAndBadCode := by
  rintro s l w wd hh he rfl -
  refine ⟨step_lzwEnd hh he, fun hbits hbad => ?_⟩
  obtain ⟨-, -, -, -, hnothing, hbeyond⟩ :=
    lzwCodeClasses (lzwCtxOf w) (inField s l w.p (lzwDecWidth w)) (Nat.le_add_right 257 _)
  rcases hbad with hgt | ⟨heq, hnone⟩
  · exact step_lzwBadCode hh he hbits (hbeyond hgt)
  · exact step_lzwBadCode hh he hbits
      (hnothing heq (hnone.imp (fun hprev => by simp [lzwCtxOf, hprev]) fun hfull => hfull.trans_eq heq))

/-! ### O34 -/

theorem lzwOutput_withOutput {e : List Byte} (h : Room s l e.length) (k : Nat) (w : LzwDecWork) :
    lzwOutput e k l w s =
      .next ((withOutput s e).setRun l (.lzwDec { w with dict := lzwLearn w e, prev := some k })) := by
  rw [lzwOutput, emitAll_withOutput h, afterEmit]

theorem exec_lzwByte (he : s.engine = .run l (.lzwDec w)) (b : Byte) :
    exec (.lzwByte b) s = lzwOutput [b] b.toNat l w s := withLzwDec_run he _

/-- Settles O34: both codes output their string, and the dictionary learns as R165 and R170 say. -/
theorem lzwByteAndEntryResults : Obligations.LzwByteAndEntryResults := by
  intro s l w c e k i he hi hroom
  obtain ⟨e', hexec, he'⟩ : ∃ e', exec i s = lzwOutput e' k l w s ∧ e' = c :: e := by
    rcases hi with ⟨rfl, rfl, rfl⟩ | ⟨rfl, hk, hentry⟩
    · exact ⟨_, exec_lzwByte he c, rfl⟩
    · exact ⟨_, exec_lzwEntry he hk hentry, rfl⟩
  rw [hexec, he', lzwOutput_withOutput hroom]
  refine ⟨fun hprev => ?_, fun pc ps hprev hstr hnext => ?_, fun hfull => ?_⟩
  · rw [lzwLearn_none hprev]
  · rw [lzwLearn_some hprev hstr hnext]
    rfl
  · rw [lzwLearn_full hfull]

/-! ### O35 -/

/-- Settles O35: what KWK outputs is what it assigns. -/
theorem lzwKwkAndClrResults : Obligations.LzwKwkAndClrResults := by
  refine fun s l w he => ⟨fun pc c ps hprev hstr hnext hroom => ?_, withLzwDec_run he _⟩
  have hout : Room s l (c :: ps ++ [c]).length := by simpa using hroom
  rw [exec_lzwKwk he hprev hstr hnext]
  refine (lzwOutput_withOutput hout _ w).trans ?_
  rw [lzwLearn_some hprev hstr hnext]
  rfl

end

/-! ### O18 -/

theorem lzwMaxWidth?_illegal {s : State} (h : (s.arg0.setWidth 8).toInt < 9 ∨ 12 < (s.arg0.setWidth 8).toInt) :
    lzwMaxWidth? (latchOf s) = none := by
  have hoperand : codeWidthOperand (latchOf s) = (s.arg0.setWidth 8).toInt := by
    rw [codeWidthOperand, latchOf, BitVec.ofNat_toNat]
  rw [lzwMaxWidth?, hoperand]
  exact if_neg fun ⟨hge, hle⟩ => h.elim (Int.not_lt.2 hge) (Int.not_lt.2 hle)

/-- Settles O18: past the common checks the operand's width decides. -/
theorem lzwCommandsStart : Obligations.LzwCommandsStart := by
  rintro s m rfl hs
  have hwritten : ∀ c k, requireInput (s.begin c) (latchOf s) k = k := fun c =>
    requireInput_ok ((regionWritten_iff (s.begin c) (latchOf s)).2 hs.written)
  have hdec := startFamily_checked hs.idle hs.operandsFit (commandWord 0x03)
  have henc := startFamily_checked hs.idle hs.operandsFit (commandWord 0x04)
  refine ⟨fun hge hle => ?legal, fun hout => ?illegal⟩
  case legal =>
    rw [exec, exec, execLzwDec, execLzwEnc, hdec, henc, lzwMaxWidth?_legal ⟨hge, hle⟩]
    exact ⟨hwritten _ _, hwritten _ _⟩
  case illegal =>
    rw [exec, exec, execLzwDec, execLzwEnc, hdec, henc, lzwMaxWidth?_illegal hout]
    exact ⟨rfl, rfl⟩

end Sys2Proof.Machine

/-! # The code stream of LZW_ENC -/

namespace Sys2Proof.Machine

/-! ## Bits of codes and bytes -/

theorem codeBits_eq (w c : Nat) : codeBits w c = natToBits c w := by
  induction w generalizing c with
  | zero => rfl
  | succ w ih =>
    have htail : codeBits w (c / 2) = (List.range w).map (c.testBit ∘ Nat.succ) :=
      List.map_congr_left fun i _ => (Nat.testBit_succ c i).symm
    rw [codeBits, List.range_succ_eq_map, List.map_cons, List.map_map, natToBits, ← ih, htail, Nat.testBit_zero]
    rfl

@[simp] theorem codeBits_length (w c : Nat) : (codeBits w c).length = w := by simp [codeBits]

@[simp] theorem byteBits_nil : byteBits [] = [] := rfl
@[simp] theorem byteBits_append (as bs : List Byte) : byteBits (as ++ bs) = byteBits as ++ byteBits bs :=
  List.flatMap_append

theorem byteBits_length (bs : List Byte) : (byteBits bs).length = 8 * bs.length := by
  induction bs with
  | nil => rfl
  | cons b bs ih =>
    simp only [byteBits, List.flatMap_cons, List.length_append, List.length_map, List.length_range,
      List.length_cons] at ih ⊢
    omega

theorem bitsToNat_append_false (bs : List Bool) (k : Nat) :
    bitsToNat (bs ++ List.replicate k false) = bitsToNat bs := by
  induction bs with
  | nil =>
    induction k with
    | zero => rfl
    | succ k ih => simpa [List.replicate_succ, bitsToNat] using ih
  | cons b bs ih => rw [List.cons_append, bitsToNat, ih, bitsToNat]

/-- Writing back a number read from fewer bits fills up with zero bits. -/
theorem natToBits_bitsToNat_of_le {bs : List Bool} {n : Nat} (h : bs.length ≤ n) :
    natToBits (bitsToNat bs) n = bs ++ List.replicate (n - bs.length) false := by
  have hlen : (bs ++ List.replicate (n - bs.length) false).length = n := by
    rw [List.length_append, List.length_replicate]
    omega
  have hpadded := natToBits_bitsToNat (bs ++ List.replicate (n - bs.length) false)
  rwa [hlen, bitsToNat_append_false] at hpadded

/-- A byte made of at most eight bits holds them and then zero bits (R162, R174). -/
theorem byteBits_ofNat {bs : List Bool} (h : bs.length ≤ 8) :
    byteBits [BitVec.ofNat 8 (bitsToNat bs)] = bs ++ List.replicate (8 - bs.length) false := by
  have hbits : byteBits [BitVec.ofNat 8 (bitsToNat bs)] = codeBits 8 (bitsToNat bs) := by
    rw [byteBits, List.flatMap_singleton]
    refine List.map_congr_left fun i hi => ?_
    rw [BitVec.getLsbD_ofNat, decide_eq_true (List.mem_range.1 hi), Bool.true_and]
  rw [hbits, codeBits_eq, natToBits_bitsToNat_of_le h]

/-- Packing bits into bytes loses none and keeps their order (R162). -/
theorem packBytes_bits : ∀ bits : List Bool, byteBits (packBytes bits).1 ++ (packBytes bits).2 = bits
  | b0 :: b1 :: b2 :: b3 :: b4 :: b5 :: b6 :: b7 :: rest => by
    have hbyte := byteBits_ofNat (bs := [b0, b1, b2, b3, b4, b5, b6, b7]) (Nat.le_refl 8)
    rw [packBytes, ← List.singleton_append, byteBits_append, List.append_assoc, packBytes_bits rest, hbyte]
    rfl
  | [] | [_] | [_, _] | [_, _, _] | [_, _, _, _] | [_, _, _, _, _] | [_, _, _, _, _, _] | [_, _, _, _, _, _, _] => rfl

theorem lzwPack_bits (acc : List Bool) (w : Nat) (codes : List Nat) :
    byteBits (lzwPack acc w codes).1 ++ (lzwPack acc w codes).2 = acc ++ codes.flatMap (codeBits w) := by
  rw [lzwPack, packBytes_bits, funext (codeBits_eq w)]

/-- The last byte holds the bits left and then zero bits (R174). -/
theorem lzwPadByte_bits {acc : List Bool} (h : acc.length < 8) :
    ∃ pad < 8, byteBits (lzwPadByte acc) = acc ++ List.replicate pad false := by
  cases acc with
  | nil => exact ⟨0, by decide, rfl⟩
  | cons b bs =>
    rw [List.length_cons] at h
    exact ⟨8 - (b :: bs).length, by rw [List.length_cons]; omega, byteBits_ofNat (Nat.le_of_lt h)⟩

/-- The end of the stream: the pending code, and zero bits up to a whole byte (R172, R174). -/
theorem lzwEncTail_bits (w : LzwEncWork) :
    ∃ pad < 8, byteBits (lzwEncTail w) =
      w.acc ++ w.pre.toList.flatMap (codeBits w.w) ++ List.replicate pad false := by
  obtain ⟨pad, hpad, hbits⟩ :=
    lzwPadByte_bits (acc := (lzwPack w.acc w.w w.pre.toList).2) (packBytes_rest_lt _)
  refine ⟨pad, hpad, ?_⟩
  rw [lzwEncTail, byteBits_append, hbits, ← List.append_assoc, lzwPack_bits]

/-! ## One input byte -/

theorem lzwFind?_of_first {dict : List (Nat × Byte)} {pc j : Nat} {c : Byte} (hj : dict[j]? = some (pc, c))
    (hfirst : ∀ k < j, dict[k]? ≠ some (pc, c)) : lzwFind? dict pc c = some (257 + j) := by
  have hfind : dict.findIdx? (fun x => decide (x = (pc, c))) = some j := by
    obtain ⟨hlt, hget⟩ := List.getElem?_eq_some_iff.1 hj
    refine List.findIdx?_eq_some_iff_getElem.2 ⟨hlt, decide_eq_true hget, fun k hk => ?_⟩
    have hne := hfirst k hk
    rw [List.getElem?_eq_getElem (hk.trans hlt)] at hne
    simpa using hne
  rw [lzwFind?, hfind]
  rfl

theorem lzwFind?_eq_some {dict : List (Nat × Byte)} {pc k : Nat} {c : Byte} (h : lzwFind? dict pc c = some k) :
    ∃ j, k = 257 + j ∧ dict[j]? = some (pc, c) := by
  obtain ⟨j, hj, rfl⟩ := Option.map_eq_some_iff.1 h
  obtain ⟨hlt, hget, -⟩ := List.findIdx?_eq_some_iff_getElem.1 hj
  exact ⟨j, rfl, List.getElem?_eq_some_iff.2 ⟨hlt, of_decide_eq_true hget⟩⟩

theorem lzwFind?_eq_none_iff {dict : List (Nat × Byte)} {pc : Nat} {c : Byte} :
    lzwFind? dict pc c = none ↔ (pc, c) ∉ dict := by
  rw [lzwFind?, Option.map_eq_none_iff, List.findIdx?_eq_none_iff]
  exact ⟨fun h hmem => by simpa using h _ hmem, fun h x hx => decide_eq_false fun heq => h (heq ▸ hx)⟩

/-- Everything an input byte `c` can do (R172, R173), by the bytes it completes and the working state after it. -/
inductive LzwEncStep (w : LzwEncWork) (c : Byte) : List Byte → LzwEncWork → Prop
  /-- The first byte of the input. -/
  | first (hpre : w.pre = none) : LzwEncStep w c [] { w with i := w.i + 1, pre := some c.toNat }
  /-- The string goes on: its code is assigned. -/
  | goesOn (pc j : Nat) (hpre : w.pre = some pc) (hfind : lzwFind? w.dict pc c = some (257 + j))
      (hj : w.dict[j]? = some (pc, c)) : LzwEncStep w c [] { w with i := w.i + 1, pre := some (257 + j) }
  /-- The pending code is written and the string with `c` assigned. -/
  | assigns (pc : Nat) (bs : List Byte) (acc : List Bool) (hpre : w.pre = some pc) (hnew : (pc, c) ∉ w.dict)
      (hroom : 257 + w.dict.length < 2 ^ w.maxW) (hacc : acc.length < 8)
      (hbits : byteBits bs ++ acc = w.acc ++ codeBits w.w pc) :
      LzwEncStep w c bs { w with
        i := w.i + 1
        dict := w.dict ++ [(pc, c)]
        w := lzwWiden (257 + w.dict.length + 1) w.w w.maxW
        pre := some c.toNat
        acc := acc }
  /-- The dictionary is full: the pending code and 256 are written, and it starts afresh. -/
  | clears (pc : Nat) (bs : List Byte) (acc : List Bool) (hpre : w.pre = some pc) (hnew : (pc, c) ∉ w.dict)
      (hfull : 2 ^ w.maxW ≤ 257 + w.dict.length) (hacc : acc.length < 8)
      (hbits : byteBits bs ++ acc = w.acc ++ codeBits w.w pc ++ codeBits w.w 256) :
      LzwEncStep w c bs { w with i := w.i + 1, dict := [], w := 9, pre := some c.toNat, acc := acc }

theorem lzwEncByte_step (w : LzwEncWork) (c : Byte) : LzwEncStep w c (lzwEncByte w c).1 (lzwEncByte w c).2 := by
  unfold lzwEncByte
  split
  case h_1 hpre => exact .first hpre
  case h_2 pc hpre =>
    split
    case h_1 k hk =>
      obtain ⟨j, rfl, hj⟩ := lzwFind?_eq_some hk
      exact .goesOn pc j hpre hk hj
    case h_2 hnone =>
      have hnew := lzwFind?_eq_none_iff.1 hnone
      split
      case isTrue hroom =>
        refine .assigns pc _ _ hpre hnew hroom (packBytes_rest_lt _) ?_
        rw [lzwPack_bits, List.flatMap_singleton]
      case isFalse hfull =>
        refine .clears pc _ _ hpre hnew (Nat.le_of_not_lt hfull) (packBytes_rest_lt _) ?_
        rw [lzwPack_bits, List.flatMap_cons, List.flatMap_singleton, List.append_assoc]
        rfl

theorem LzwEncStep.i_eq {w w' : LzwEncWork} {c : Byte} {bs : List Byte} (h : LzwEncStep w c bs w') :
    w'.i = w.i + 1 := by
  cases h <;> rfl

/-- A string that is not assigned: the two cases that write (R172, R173). -/
theorem lzwEncByte_writes {w : LzwEncWork} {c : Byte} {pc : Nat} (hpre : w.pre = some pc) (hnew : (pc, c) ∉ w.dict) :
    ∃ bs acc, acc.length < 8 ∧
      (257 + w.dict.length < 2 ^ w.maxW →
        byteBits bs ++ acc = w.acc ++ codeBits w.w pc ∧
        lzwEncByte w c = (bs, { w with
          i := w.i + 1
          dict := w.dict ++ [(pc, c)]
          w := if 2 ^ w.w < 257 + w.dict.length + 1 ∧ w.w < w.maxW then w.w + 1 else w.w
          pre := some c.toNat
          acc := acc })) ∧
      (2 ^ w.maxW ≤ 257 + w.dict.length →
        byteBits bs ++ acc = w.acc ++ codeBits w.w pc ++ codeBits w.w 256 ∧
        lzwEncByte w c = (bs, { w with i := w.i + 1, dict := [], w := 9, pre := some c.toNat, acc := acc })) := by
  have hstep := lzwEncByte_step w c
  rw [← lzwWiden_eq]
  generalize lzwEncByte w c = r at hstep ⊢
  obtain ⟨bs, w'⟩ := r
  cases hstep with
  | first hnone => cases hpre.symm.trans hnone
  | goesOn pc' j hpre' _ hj =>
    cases hpre.symm.trans hpre'
    exact absurd (List.mem_of_getElem? hj) hnew
  | assigns pc' _ acc hpre' _ hroom hacc hbits =>
    cases hpre.symm.trans hpre'
    exact ⟨bs, acc, hacc, fun _ => ⟨hbits, rfl⟩, fun hfull => absurd hroom (Nat.not_lt.2 hfull)⟩
  | clears pc' _ acc hpre' _ hfull hacc hbits =>
    cases hpre.symm.trans hpre'
    exact ⟨bs, acc, hacc, fun hroom => absurd hroom (Nat.not_lt.2 hfull), fun _ => ⟨hbits, rfl⟩⟩

/-! ## The run of LZW_ENC -/

theorem finish_putAll_setRun (flags : Reg) (used : Nat) (s : State) (l : Latch) (w : Work) (bs : List Byte) :
    finish flags used ((s.setRun l w).putAll bs) = finish flags used (s.putAll bs) := by
  induction bs generalizing s with
  | nil => rfl
  | cons b bs ih => exact ih (s.putOut b)

/-- How LZW_ENC leaves a machine `s` left alone, `out` being what it has still to write: finished with it in OUT, or,
where it has no room, in OutputOverflow (R105, R174). -/
inductive LzwEncEnded (l : Latch) (out : List Byte) (s : State) : State → Prop
  | finished (hroom : s.dstLen.toNat + out.length ≤ l.cap) : LzwEncEnded l out s (finish 0 l.n (s.putAll out))
  | overflowed (hno : l.cap < s.dstLen.toNat + out.length) (pos : Nat) (u : State) :
      LzwEncEnded l out s (raise .outputOverflow pos u)

section
variable {l : Latch} {s : State} {w : LzwEncWork}

theorem step_lzwEnc_byte (hh : s.host = []) (he : s.engine = .run l (.lzwEnc w)) {c : Byte} {cs : List Byte}
    (hin : (regionBytes s l).drop w.i = c :: cs) :
    step s = afterEmit (emitAll l.cap (l.off + w.i) (lzwEncByte w c).1 s)
      fun t => .next (t.setRun l (.lzwEnc (lzwEncByte w c).2)) := by
  obtain ⟨hi, hc, -⟩ := inByte_of_drop hin
  rw [step_engine he hh, engineTurn, runTurn_own, lzwEncTurn, if_pos (Nat.lt_of_add_lt_add_left hi), hc]

theorem step_lzwEnc_end (hh : s.host = []) (he : s.engine = .run l (.lzwEnc w))
    (hin : (regionBytes s l).drop w.i = []) :
    step s = afterEmit (emitAll l.cap (l.off + w.i) (lzwEncTail w) s) fun t => .next (finish 0 l.n t) := by
  have hend : ¬ w.i < l.n := by simpa using hin
  rw [step_engine he hh, engineTurn, runTurn_own, lzwEncTurn, if_neg hend]

/-- Left alone, LZW_ENC ends with its code stream written or no room for it. -/
theorem lzwEnc_run {cs : List Byte} (hh : s.host = []) (he : s.engine = .run l (.lzwEnc w))
    (hin : (regionBytes s l).drop w.i = cs) (hcap : l.cap < 2 ^ 32) (hle : s.dstLen.toNat ≤ l.cap) :
    ∃ k t, Host.Core.run core k s = .next t ∧ LzwEncEnded l (lzwEncodeFrom w cs) s t := by
  induction cs generalizing s w with
  | nil =>
    have hstep := step_lzwEnc_end hh he hin
    rcases afterEmit_cases hcap (l.off + w.i) (lzwEncTail w) hle (fun t => .next (finish 0 l.n t)) with
      ⟨hroom, hturn⟩ | ⟨hno, hturn⟩
    · exact ⟨1, _, run_step (hstep.trans hturn) 0, .finished hroom⟩
    · exact ⟨1, _, run_step (hstep.trans hturn) 0, .overflowed hno _ _⟩
  | cons c cs ih =>
    have hstep := step_lzwEnc_byte hh he hin
    obtain ⟨-, -, hdrop⟩ := inByte_of_drop hin
    have hi := (lzwEncByte_step w c).i_eq
    rw [lzwEncodeFrom]
    generalize lzwEncByte w c = r at hstep hi ⊢
    rcases afterEmit_cases hcap (l.off + w.i) r.1 hle (fun t => .next (t.setRun l (.lzwEnc r.2))) with
      ⟨hroom, hturn⟩ | ⟨hno, hturn⟩
    · have hnext := hstep.trans hturn
      have hlen : ((s.putAll r.1).setRun l (.lzwEnc r.2)).dstLen.toNat = s.dstLen.toNat + r.1.length :=
        putAll_dstLen r.1 (Nat.lt_of_le_of_lt hroom hcap)
      obtain ⟨k, t, hrun, hended⟩ := ih (host_of_step hnext hh) rfl
        (by rw [hi, regionBytes_of_step hnext hh, hdrop]) (hlen.trans_le hroom)
      refine ⟨k + 1, t, (run_step hnext k).trans hrun, ?_⟩
      cases hended with
      | finished hroom' =>
        rw [finish_putAll_setRun, ← putAll_append]
        exact .finished (by rw [List.length_append]; omega)
      | overflowed hno pos u => exact .overflowed (by rw [List.length_append]; omega) pos u
    · exact ⟨1, _, run_step (hstep.trans hturn) 0, .overflowed (by rw [List.length_append]; omega) _ _⟩

end

/-! ### O37 -/

/-- Settles O37: what an input byte does, case by case; the bits of the last bytes; and the run to the end. -/
theorem lzwEncWholeRun : Obligations.LzwEncWholeRun := by
  refine ⟨fun w c => ⟨fun hpre => ?first, fun pc hpre => ⟨fun j hj hfirst => ?known, lzwEncByte_writes hpre⟩⟩,
    lzwEncTail_bits, ?run⟩
  case first => rw [lzwEncByte, hpre]
  case known =>
    rw [lzwEncByte, hpre]
    simp only [lzwFind?_of_first hj hfirst]
  case run =>
    intro s l w hh he hi _ hroom
    obtain ⟨hfit, hcap⟩ := hroom
    obtain ⟨k, t, hrun, hended⟩ := lzwEnc_run hh he (by rw [hi, List.drop_zero]) hcap (Nat.le_of_add_right_le hfit)
    refine ⟨k, hrun.trans ?_⟩
    cases hended with
    | finished _ =>
      rw [withOutput_eq_putAll (by omega)]
      rfl
    | overflowed hno => exact absurd hfit (Nat.not_le.2 hno)

end Sys2Proof.Machine

/-! # The round trip of LZW -/

namespace Sys2Proof.Machine

/-! ## The stream as the decoder reads it -/

/-- The bits held are the next ones of the stream. -/
theorem lzwEncodeFrom_acc (w : LzwEncWork) (cs : List Byte) :
    ∃ bits, byteBits (lzwEncodeFrom w cs) = w.acc ++ bits := by
  induction cs generalizing w with
  | nil =>
    obtain ⟨pad, -, hbits⟩ := lzwEncTail_bits w
    exact ⟨_, hbits.trans (List.append_assoc _ _ _)⟩
  | cons c cs ih =>
    have hstep := lzwEncByte_step w c
    obtain ⟨bits, hbits⟩ := ih (lzwEncByte w c).2
    rw [lzwEncodeFrom, byteBits_append, hbits]
    generalize lzwEncByte w c = r at hstep
    obtain ⟨bs, w'⟩ := r
    cases hstep with
    | first | goesOn => exact ⟨bits, rfl⟩
    | assigns _ _ _ _ _ _ _ hput | clears _ _ _ _ _ _ _ hput =>
      simp only [← List.append_assoc, hput]
      exact ⟨_, by simp only [List.append_assoc]; rfl⟩

/-- The bits still to come when the stream of `cs` from `w` is next and the decoder has read what `w` no longer
holds. -/
def LzwPending (w : LzwEncWork) (cs : List Byte) (bits : List Bool) : Prop :=
  byteBits (lzwEncodeFrom w cs) = w.acc ++ bits

/-- At the end of the input the pending code comes, and less than a byte of zero bits. -/
theorem LzwPending.last {w : LzwEncWork} {bits : List Bool} (h : LzwPending w [] bits) :
    ∃ rest, bits = w.pre.toList.flatMap (codeBits w.w) ++ rest ∧ rest.length < 8 := by
  obtain ⟨pad, hpad, hbits⟩ := lzwEncTail_bits w
  refine ⟨List.replicate pad false, ?_, by rwa [List.length_replicate]⟩
  exact List.append_cancel_left (h.symm.trans (hbits.trans (List.append_assoc _ _ _)))

/-- The codes an input byte puts come next. -/
theorem LzwPending.step {w w' : LzwEncWork} {c : Byte} {cs : List Byte} {bits codes : List Bool} {bs : List Byte}
    (h : LzwPending w (c :: cs) bits) (hr : lzwEncByte w c = (bs, w')) (hput : byteBits bs ++ w'.acc = w.acc ++ codes) :
    ∃ rest, bits = codes ++ rest ∧ LzwPending w' cs rest := by
  obtain ⟨rest, hrest⟩ := lzwEncodeFrom_acc w' cs
  refine ⟨rest, ?_, hrest⟩
  rw [LzwPending, lzwEncodeFrom, hr, byteBits_append, hrest, ← List.append_assoc, hput, List.append_assoc] at h
  exact (List.append_cancel_left h).symm

/-- The region's bits from bit `k` on. -/
def regionBitsFrom (s : State) (l : Latch) (k : Nat) : List Bool := (byteBits (regionBytes s l)).drop k

theorem byteBits_getElem? (bs : List Byte) (k : Nat) :
    (byteBits bs)[k]? = bs[k / 8]?.map fun b => b.getLsbD (k % 8) := by
  induction bs generalizing k with
  | nil => rfl
  | cons b bs ih =>
    have hcons : byteBits (b :: bs) = (List.range 8).map b.getLsbD ++ byteBits bs := rfl
    rcases Nat.lt_or_ge k 8 with hk | hk
    · rw [hcons, List.getElem?_append_left (by simpa using hk), List.getElem?_map, List.getElem?_range hk,
        Nat.div_eq_of_lt hk, Nat.mod_eq_of_lt hk]
      rfl
    · obtain ⟨j, rfl⟩ := Nat.exists_eq_add_of_le hk
      rw [hcons, List.getElem?_append_right (by simp), List.length_map, List.length_range, Nat.add_sub_cancel_left, ih,
        Nat.add_mod_left, Nat.add_div_left _ (by decide), List.getElem?_cons_succ]

/-- A field of the region is bits of its bytes (R41, R232). -/
theorem inBitList_eq_take {s : State} {l : Latch} {k m : Nat} (h : k + m ≤ 8 * l.n) :
    inBitList s l k m = (regionBitsFrom s l k).take m := by
  refine List.ext_getElem? fun i => ?_
  rcases Nat.lt_or_ge i m with hi | hi
  · have hbyte : (k + i) / 8 < l.n := by omega
    rw [List.getElem?_take_of_lt hi, regionBitsFrom, List.getElem?_drop, byteBits_getElem?, inBitList,
      List.getElem?_map, List.getElem?_range hi, regionBytes, inBytes, List.getElem?_map, List.getElem?_range hbyte]
    rfl
  · rw [List.getElem?_eq_none (by simpa using hi), List.getElem?_eq_none]
    exact (List.length_take_le _ _).trans hi

theorem regionBitsFrom_length (s : State) (l : Latch) (k : Nat) : (regionBitsFrom s l k).length = 8 * l.n - k := by
  rw [regionBitsFrom, List.length_drop, byteBits_length, regionBytes_length]

/-- A code that stands next is read back (R162). -/
theorem inField_code {s : State} {l : Latch} {p w c : Nat} {rest : List Bool} (hc : c < 2 ^ w) (hw : p ≤ 8 * l.n)
    (h : regionBitsFrom s l p = codeBits w c ++ rest) :
    p + w ≤ 8 * l.n ∧ inField s l p w = c ∧ regionBitsFrom s l (p + w) = rest := by
  have hlen := congrArg List.length h
  rw [regionBitsFrom_length, List.length_append, codeBits_length] at hlen
  have hin : p + w ≤ 8 * l.n := by omega
  refine ⟨hin, ?_, ?_⟩
  · rw [inField, inBitList_eq_take hin, h, List.take_left' (codeBits_length w c), codeBits_eq, bitsToNat_natToBits,
      Nat.mod_eq_of_lt hc]
  · rw [regionBitsFrom, ← List.drop_drop, ← regionBitsFrom, h, List.drop_left' (codeBits_length w c)]

/-! ## The decoder follows the encoder -/

/-- The strings `strs` are those of the assigned (code, byte) pairs (R160). -/
structure LzwSpells (dict : List (Nat × Byte)) (strs : List (List Byte)) : Prop where
  len : strs.length = dict.length
  entry : ∀ (j pc : Nat) (c : Byte), dict[j]? = some (pc, c) →
    ∃ ps, lzwString strs pc = some ps ∧ strs[j]? = some (ps ++ [c])

theorem lzwString_append {strs : List (List Byte)} {k : Nat} {e : List Byte} (h : lzwString strs k = some e)
    (x : List Byte) : lzwString (strs ++ [x]) k = some e := by
  unfold lzwString at h ⊢
  split
  case isTrue hbyte => rwa [if_pos hbyte] at h
  case isFalse hbyte =>
    rw [if_neg hbyte] at h
    split
    case isTrue hlow => rwa [if_pos hlow] at h
    case isFalse hlow =>
      rw [if_neg hlow] at h
      rw [List.getElem?_append_left (List.getElem?_eq_some_iff.1 h).1, h]

theorem LzwSpells.assign {dict : List (Nat × Byte)} {strs : List (List Byte)} (h : LzwSpells dict strs) {pc : Nat}
    {ps : List Byte} (hps : lzwString strs pc = some ps) (c : Byte) :
    LzwSpells (dict ++ [(pc, c)]) (strs ++ [ps ++ [c]]) where
  len := by rw [List.length_append, List.length_append, h.len]; rfl
  entry j pc' c' hj := by
    rcases Nat.lt_or_ge j dict.length with hlt | hge
    · rw [List.getElem?_append_left hlt] at hj
      obtain ⟨qs, hqs, hentry⟩ := h.entry j pc' c' hj
      exact ⟨qs, lzwString_append hqs _, by rwa [List.getElem?_append_left (h.len.symm ▸ hlt)]⟩
    · have hlast : j = dict.length := by
        have hbound := (List.getElem?_eq_some_iff.1 hj).1
        rw [List.length_append, List.length_singleton] at hbound
        omega
      subst hlast
      rw [List.getElem?_concat_length] at hj
      cases hj
      exact ⟨ps, lzwString_append hps _, by rw [← h.len, List.getElem?_concat_length]⟩

/-- The decoder `v` follows the encoder `w`, whose pending string is `e`: once it has read the pending code it has the
encoder's dictionary, and it reads that code at the encoder's width (R163, R164). -/
structure LzwFollows (w : LzwEncWork) (e : List Byte) (v : LzwDecWork) : Prop where
  maxW : v.maxW = w.maxW
  width : lzwDecWidth v = w.w
  dict : LzwSpells w.dict (lzwLearn v e)
  pending : ∃ pc, w.pre = some pc ∧ lzwString (lzwLearn v e) pc = some e

/-- The decoder's state past a code `pc` whose string is `e` (R165). -/
def lzwPast (v : LzwDecWork) (e : List Byte) (pc : Nat) : LzwDecWork :=
  { p := v.p + lzwDecWidth v, w := lzwDecWidth v, maxW := v.maxW, dict := lzwLearn v e, prev := some pc }

theorem lzwDecWidth_lzwPast (v : LzwDecWork) (e : List Byte) (pc : Nat) :
    lzwDecWidth (lzwPast v e pc) = lzwWiden (257 + (lzwLearn v e).length + 1) (lzwDecWidth v) v.maxW := by
  rw [lzwDecWidth_eq, if_neg nofun]
  rfl

/-- Past the code 256 (R167). -/
def lzwPastClear (v : LzwDecWork) : LzwDecWork :=
  { p := v.p + lzwDecWidth v, w := 9, maxW := v.maxW, dict := [], prev := none }

/-- What LZW_ENC starts with (R172). -/
def lzwEncInit (m : Nat) : LzwEncWork := { i := 0, w := 9, maxW := m, dict := [], pre := none, acc := [] }

/-- What LZW_DEC starts with (R165). -/
def lzwDecInit (m : Nat) : LzwDecWork := { p := 0, w := 9, maxW := m, dict := [], prev := none }

theorem lzwString_toNat (strs : List (List Byte)) (c : Byte) : lzwString strs c.toNat = some [c] := by
  rw [lzwString, if_pos c.isLt, BitVec.ofNat_toNat, BitVec.setWidth_eq]

/-- Both start afresh, and the encoder has taken the byte `c`. -/
theorem LzwFollows.fresh {w : LzwEncWork} {v : LzwDecWork} {c : Byte} (hmax : v.maxW = w.maxW) (hv : v.w = 9)
    (hw : w.w = 9) (hdict : v.dict = []) (hprev : v.prev = none) (hassigned : w.dict = [])
    (hpre : w.pre = some c.toNat) : LzwFollows w [c] v where
  maxW := hmax
  width := by rw [lzwDecWidth_eq, if_pos hprev, hdict, hv, hw, lzwWiden_eq, if_neg (fun h => absurd h.1 (by decide))]
  dict := by
    rw [lzwLearn_none hprev, hdict, hassigned]
    exact ⟨rfl, nofun⟩
  pending := ⟨_, hpre, lzwString_toNat _ c⟩

/-- A dictionary that is learnt from a string is learnt from any longer one. -/
theorem lzwLearn_concat (v : LzwDecWork) {e : List Byte} (he : e ≠ []) (c : Byte) :
    lzwLearn v (e ++ [c]) = lzwLearn v e := by
  obtain ⟨b, bs, rfl⟩ := List.exists_cons_of_ne_nil he
  rfl

/-- The pending string goes on. -/
theorem LzwFollows.goesOn {w : LzwEncWork} {v : LzwDecWork} {e : List Byte} {c : Byte} {pc j : Nat}
    (h : LzwFollows w e v) (he : e ≠ []) (hpre : w.pre = some pc) (hj : w.dict[j]? = some (pc, c)) :
    LzwFollows { w with i := w.i + 1, pre := some (257 + j) } (e ++ [c]) v := by
  obtain ⟨pc', hpre', hstr⟩ := h.pending
  cases hpre.symm.trans hpre'
  obtain ⟨ps, hps, hentry⟩ := h.dict.entry j pc c hj
  cases hstr.symm.trans hps
  refine ⟨h.maxW, h.width, ?_, 257 + j, rfl, ?_⟩
  · rw [lzwLearn_concat v he]
    exact h.dict
  · rw [lzwLearn_concat v he, lzwString_entry _ (Nat.le_add_right 257 j), Nat.add_sub_cancel_left, hentry]

/-- The pending code is read, and a string assigned. -/
theorem LzwFollows.assigns {w : LzwEncWork} {v : LzwDecWork} {e : List Byte} {pc : Nat}
    (h : LzwFollows w e v) (hpre : w.pre = some pc) (hroom : 257 + w.dict.length < 2 ^ w.maxW) (c : Byte)
    (acc : List Bool) :
    LzwFollows { w with
      i := w.i + 1
      dict := w.dict ++ [(pc, c)]
      w := lzwWiden (257 + w.dict.length + 1) w.w w.maxW
      pre := some c.toNat
      acc := acc } [c] (lzwPast v e pc) := by
  obtain ⟨pc', hpre', hstr⟩ := h.pending
  cases hpre.symm.trans hpre'
  have hlearn : lzwLearn (lzwPast v e pc) [c] = lzwLearn v e ++ [e ++ [c]] :=
    lzwLearn_some (w := lzwPast v e pc) rfl hstr (by
      show lzwNext (lzwLearn v e).length < 2 ^ v.maxW
      rw [h.dict.len, h.maxW]
      exact hroom) [c]
  refine ⟨h.maxW, ?_, ?_, c.toNat, rfl, lzwString_toNat _ c⟩
  · rw [lzwDecWidth_lzwPast, h.dict.len, h.width, h.maxW]
  · rw [hlearn]
    exact h.dict.assign hstr c

/-- The pending code and 256 are read, and both start afresh (R167, R173). -/
theorem LzwFollows.clears {w : LzwEncWork} {v : LzwDecWork} {e : List Byte} (h : LzwFollows w e v) (pc : Nat) (c : Byte)
    (acc : List Bool) :
    LzwFollows { w with i := w.i + 1, dict := [], w := 9, pre := some c.toNat, acc := acc } [c]
      (lzwPastClear (lzwPast v e pc)) :=
  .fresh h.maxW rfl rfl rfl rfl rfl rfl

/-- Past the pending code of a full dictionary the decoder reads on at the same width (R164, R173). -/
theorem LzwFollows.width_full {w : LzwEncWork} {v : LzwDecWork} {e : List Byte} {pc : Nat} {l : Latch}
    (h : LzwFollows w e v) (hw : LzwEncOk l w) (hfull : 2 ^ w.maxW ≤ 257 + w.dict.length) :
    lzwDecWidth (lzwPast v e pc) = w.w := by
  have hmax : w.maxW ≤ w.w := (Nat.pow_le_pow_iff_right (by decide)).1 (hfull.trans hw.next_le)
  rw [lzwDecWidth_lzwPast, lzwWiden_eq, if_neg (fun hlt => by rw [h.width, h.maxW] at hlt; omega), h.width]

/-! ## The steps of the decoder -/

/-- LZW_DEC at a code's start: `out` is in OUT and `bits` of the region are still to be read. -/
structure LzwDecAt (l : Latch) (v : LzwDecWork) (out : List Byte) (bits : List Bool) (s : State) : Prop where
  host : s.host = []
  run : s.engine = .run l (.lzwDec v)
  ok : LzwDecOk l v
  cap_lt : l.cap < 2 ^ 32
  out : outCells s = out.map some
  bits : regionBitsFrom s l v.p = bits

/-- A code not yet assigned whose own string completes its entry: KWK's case (R168). -/
theorem LzwDecOk.kwk {l : Latch} {v : LzwDecWork} (hv : LzwDecOk l v) {e : List Byte} {pc : Nat}
    (hstr : lzwString (lzwLearn v e) pc = some e) (hnew : 257 + v.dict.length ≤ pc) :
    pc = 257 + v.dict.length ∧ 257 + v.dict.length < 2 ^ v.maxW ∧
      ∃ q ps, v.prev = some q ∧ lzwString v.dict q = some ps ∧ ps ++ ps.take 1 = e := by
  rw [lzwString_entry _ (by omega)] at hstr
  have hmore : lzwLearn v e ≠ v.dict := fun hsame => by
    rw [hsame, List.getElem?_eq_none (by omega)] at hstr
    cases hstr
  obtain ⟨q, hprev⟩ := Option.ne_none_iff_exists'.1 fun hnone => hmore (lzwLearn_none hnone e)
  obtain ⟨ps, hps⟩ := Option.isSome_iff_exists.1 (hv.prev_str q hprev)
  have hroom : lzwNext v.dict.length < 2 ^ v.maxW := Nat.lt_of_not_le fun hfull => hmore (lzwLearn_full hfull e)
  rw [lzwLearn_some hprev hps hroom] at hstr
  obtain rfl : pc = 257 + v.dict.length := by
    have hbound := (List.getElem?_eq_some_iff.1 hstr).1
    rw [List.length_append, List.length_singleton] at hbound
    omega
  rw [Nat.add_sub_cancel_left, List.getElem?_concat_length] at hstr
  refine ⟨rfl, hroom, q, ps, hprev, hps, ?_⟩
  obtain ⟨b, bs, rfl⟩ := List.exists_cons_of_ne_nil (lzwString_ne_nil hv.strings hps)
  have hcons := Option.some.inj hstr
  have hhead : e.take 1 = [b] := by
    rw [← hcons]
    rfl
  rwa [hhead] at hcons

/-- A code whose string is in the dictionary that its own string completes: it names something, and outputs that
string (R166, R168). -/
theorem exec_lzwCode {l : Latch} {v : LzwDecWork} (hv : LzwDecOk l v) {e : List Byte} {pc : Nat}
    (hstr : lzwString (lzwLearn v e) pc = some e) :
    ∃ i, decodeLzw (lzwCtxOf v) pc = .ok i ∧
      ∀ s : State, s.engine = .run l (.lzwDec v) → exec i s = lzwOutput e pc l v s := by
  rcases Nat.lt_or_ge pc 256 with hbyte | hbyte
  · rw [lzwString, if_pos hbyte] at hstr
    refine ⟨_, decodeLzw_byte _ hbyte, fun s hs => ?_⟩
    rw [exec_lzwByte hs, BitVec.toNat_ofNat, Nat.mod_eq_of_lt hbyte, Option.some.inj hstr]
  have hfirst : 257 ≤ pc := by
    refine Nat.lt_of_le_of_ne hbyte fun heq => ?_
    subst heq
    cases hstr
  rcases Nat.lt_or_ge pc (257 + v.dict.length) with hold | hnew
  · have hentry : v.dict[pc - 257]? = some e := by
      rw [lzwString_entry _ hfirst] at hstr
      rcases lzwLearn_cases v e with hsame | ⟨-, ps, hmore⟩
      · rwa [hsame] at hstr
      · rwa [hmore, List.getElem?_append_left (by omega)] at hstr
    exact ⟨_, decodeLzw_entry hfirst hold, fun s hs => exec_lzwEntry hs hfirst hentry⟩
  · obtain ⟨rfl, hroom, q, ps, hprev, hps, he⟩ := hv.kwk hstr hnew
    refine ⟨.lzwKwk (257 + v.dict.length), ?_, fun s hs => ?_⟩
    · rw [decodeLzw_unassigned hfirst (Nat.le_refl _), if_pos ⟨rfl, by rw [lzwCtxOf, hprev]; rfl, hroom⟩]
    · rw [exec_lzwKwk hs hprev hps hroom, he]

section
variable {l : Latch} {v : LzwDecWork} {out : List Byte} {bits rest : List Bool} {s : State}

theorem LzwDecOk.width_bounds (hv : LzwDecOk l v) : v.w ≤ lzwDecWidth v ∧ lzwDecWidth v ≤ v.maxW :=
  lzwDecWidth_eq v ▸ lzwWiden_bounds hv.w_le

theorem LzwDecOk.width_ge (hv : LzwDecOk l v) : 9 ≤ lzwDecWidth v := hv.w_ge.trans hv.width_bounds.1

/-- A code is read before it runs (R165). -/
theorem LzwDecOk.read (hv : LzwDecOk l v) (hbits : v.p + lzwDecWidth v ≤ 8 * l.n) :
    LzwDecOk l { v with p := v.p + lzwDecWidth v, w := lzwDecWidth v } :=
  { hv with
    w_ge := hv.width_ge
    w_le := hv.width_bounds.2
    p_le := hbits }

theorem regionBitsFrom_of_step {t : State} (h : step s = .next t) (hh : s.host = []) (l : Latch) (k : Nat) :
    regionBitsFrom t l k = regionBitsFrom s l k := by
  rw [regionBitsFrom, regionBitsFrom, regionBytes_of_step h hh]

/-- A code whose string the dictionary has, or gets by it, is output (R166, R168). -/
theorem LzwDecAt.code {e : List Byte} {pc : Nat} (h : LzwDecAt l v out (codeBits (lzwDecWidth v) pc ++ rest) s)
    (hstr : lzwString (lzwLearn v e) pc = some e) (hne : e ≠ []) (hpc : pc < 2 ^ lzwDecWidth v)
    (hroom : (out ++ e).length ≤ l.cap) :
    ∃ t, step s = .next t ∧ LzwDecAt l (lzwPast v e pc) (out ++ e) rest t := by
  have hlen := congrArg List.length h.out
  rw [outCells_length, List.length_map] at hlen
  rw [List.length_append, ← hlen] at hroom
  obtain ⟨hbits, hfield, hrest⟩ := inField_code hpc h.ok.p_le h.bits
  have hread := h.ok.read hbits
  obtain ⟨i, hi, hexec⟩ := exec_lzwCode (e := e) hread hstr
  have hstep := step_lzwCode h.host h.run hbits (hfield.symm ▸ hi)
  rw [hexec _ rfl, lzwOutput_room (s := s.setRun l _) h.cap_lt hroom] at hstep
  refine ⟨_, hstep, {
    host := host_of_step hstep h.host
    run := rfl
    ok := hread.learn hne (Option.isSome_iff_exists.2 ⟨e, hstr⟩)
    cap_lt := h.cap_lt
    out := ?_
    bits := (regionBitsFrom_of_step hstep h.host l _).trans hrest }⟩
  rw [outCells_setRun, outCells_putAll (s := s.setRun l _) (Nat.lt_of_le_of_lt hroom h.cap_lt), outCells_setRun, h.out,
    List.map_append]

/-- The code 256 (R167). -/
theorem LzwDecAt.clear (h : LzwDecAt l v out (codeBits (lzwDecWidth v) 256 ++ rest) s) :
    ∃ t, step s = .next t ∧ LzwDecAt l (lzwPastClear v) out rest t := by
  have hwide := h.ok.width_ge
  have hfit : 256 < 2 ^ lzwDecWidth v := Nat.lt_of_lt_of_le (by decide) (Nat.pow_le_pow_right (by decide) hwide)
  obtain ⟨hbits, hfield, hrest⟩ := inField_code hfit h.ok.p_le h.bits
  have hexec : exec .lzwClr (s.setRun l (.lzwDec { v with p := v.p + lzwDecWidth v, w := lzwDecWidth v })) =
      .next (s.setRun l (.lzwDec (lzwPastClear v))) :=
    (lzwKwkAndClrResults (s.setRun l _) l _ rfl).2
  have hstep := (step_lzwCode h.host h.run hbits (hfield.symm ▸ rfl)).trans hexec
  exact ⟨_, hstep, {
    host := host_of_step hstep h.host
    run := rfl
    ok := lzwToken_keeps (i := .lzwClr) rfl (h.ok.read hbits) rfl hexec l _ rfl
    cap_lt := h.cap_lt
    out := h.out
    bits := (regionBitsFrom_of_step hstep h.host l _).trans hrest }⟩

/-- Less than a byte of bits is no code (R171). -/
theorem LzwDecAt.ends (h : LzwDecAt l v out rest s) (hrest : rest.length < 8) :
    ∃ t, step s = .next t ∧ t.engine = .idle ∧ t.status = 0b00010 ∧ outCells t = out.map some := by
  have hwide := h.ok.width_ge
  have hlen := congrArg List.length h.bits
  rw [regionBitsFrom_length] at hlen
  exact ⟨_, step_lzwEnd h.host h.run (by omega), rfl, rfl, h.out⟩

/-- The encoder's pending code, written at its width, is read and outputs its string. -/
theorem LzwDecAt.pending {w : LzwEncWork} {lw : Latch} {e : List Byte} {pc : Nat} (h : LzwDecAt l v out bits s)
    (hfollows : LzwFollows w e v) (hne : e ≠ []) (hw : LzwEncOk lw w) (hpre : w.pre = some pc)
    (hbits : bits = codeBits w.w pc ++ rest) (hroom : (out ++ e).length ≤ l.cap) :
    ∃ t, step s = .next t ∧ LzwDecAt l (lzwPast v e pc) (out ++ e) rest t := by
  obtain ⟨pc', hpre', hstr⟩ := hfollows.pending
  cases hpre.symm.trans hpre'
  rw [← hfollows.width] at hbits
  subst hbits
  exact h.code hstr hne (hfollows.width ▸ (hw.pre_lt pc hpre).1.trans_le hw.next_le) hroom

/-- LZW_DEC on what LZW_ENC has still to write: it outputs the pending string and the bytes to come. -/
theorem LzwDecAt.decodes {w : LzwEncWork} {lw : Latch} {e cs : List Byte} (h : LzwDecAt l v out bits s)
    (hfollows : LzwFollows w e v) (hne : e ≠ []) (hw : LzwEncOk lw w) (hi : w.i + cs.length ≤ lw.n)
    (hpending : LzwPending w cs bits) (hroom : (out ++ e ++ cs).length ≤ l.cap) :
    ∃ j t, Host.Core.run core j s = .next t ∧ t.engine = .idle ∧ t.status = 0b00010 ∧
      outCells t = (out ++ e ++ cs).map some := by
  induction cs generalizing w v e out bits s with
  | nil =>
    obtain ⟨pc, hpre, -⟩ := hfollows.pending
    obtain ⟨rest, hbits, hrest⟩ := hpending.last
    rw [hpre, Option.toList_some, List.flatMap_singleton] at hbits
    rw [List.append_nil] at hroom ⊢
    obtain ⟨t, hstep, hat⟩ := h.pending hfollows hne hw hpre hbits hroom
    obtain ⟨t', hstep', hended⟩ := hat.ends hrest
    exact ⟨2, t', (run_step hstep 1).trans (run_step hstep' 0), hended⟩
  | cons c cs ih =>
    have hmove := lzwEncByte_step w c
    have hw' := lzwEncByte_keeps hw (by rw [List.length_cons] at hi; omega) c
    have hi' : (lzwEncByte w c).2.i + cs.length ≤ lw.n := by
      rw [hmove.i_eq]
      rwa [List.length_cons, Nat.add_comm cs.length, ← Nat.add_assoc] at hi
    have hroom_e : (out ++ e).length ≤ l.cap := by
      rw [List.length_append] at hroom
      omega
    have hsplit : out ++ e ++ (c :: cs) = out ++ e ++ [c] ++ cs := List.append_cons _ _ _
    rw [hsplit] at hroom ⊢
    generalize hr : lzwEncByte w c = r at hmove hw' hi'
    obtain ⟨bs, w'⟩ := r
    cases hmove with
    | first hnone =>
      obtain ⟨pc, hpre, -⟩ := hfollows.pending
      cases hpre.symm.trans hnone
    | goesOn pc j hpre _ hj =>
      obtain ⟨rest, rfl, hnext⟩ := hpending.step (codes := []) hr (List.append_nil _).symm
      rw [List.append_assoc out] at hroom ⊢
      exact ih h (hfollows.goesOn hne hpre hj) (by simp) hw' hi' hnext hroom
    | assigns pc _ acc hpre _ hdict _ hput =>
      obtain ⟨rest, hbits, hnext⟩ := hpending.step hr hput
      obtain ⟨t, hstep, hat⟩ := h.pending hfollows hne hw hpre hbits hroom_e
      obtain ⟨k, t', hrun, hended⟩ :=
        ih hat (hfollows.assigns hpre hdict c acc) (List.cons_ne_nil c []) hw' hi' hnext hroom
      exact ⟨k + 1, t', (run_step hstep k).trans hrun, hended⟩
    | clears pc _ acc hpre _ hfull _ hput =>
      obtain ⟨rest, hbits, hnext⟩ := hpending.step hr (hput.trans (List.append_assoc _ _ _))
      obtain ⟨t, hstep, hat⟩ := h.pending hfollows hne hw hpre (hbits.trans (List.append_assoc _ _ _)) hroom_e
      rw [← hfollows.width_full hw hfull] at hat
      obtain ⟨t', hstep', hat'⟩ := hat.clear
      obtain ⟨k, t'', hrun, hended⟩ :=
        ih hat' (hfollows.clears pc c acc) (List.cons_ne_nil c []) hw' hi' hnext hroom
      exact ⟨k + 2, t'', (run_step hstep (k + 1)).trans ((run_step hstep' k).trans hrun), hended⟩

/-- LZW_DEC on the whole code stream of `d`. -/
theorem LzwDecAt.decodes_all {lw : Latch} {m : Nat} {d : List Byte} (hlen : d.length = lw.n)
    (hw : LzwEncOk lw (lzwEncInit m))
    (h : LzwDecAt l (lzwDecInit m) [] (byteBits (lzwEncodeFrom (lzwEncInit m) d)) s) (hroom : d.length ≤ l.cap) :
    ∃ j t, Host.Core.run core j s = .next t ∧ t.engine = .idle ∧ t.status = 0b00010 ∧ outCells t = d.map some := by
  have hpending : LzwPending (lzwEncInit m) d (byteBits (lzwEncodeFrom (lzwEncInit m) d)) := rfl
  generalize byteBits (lzwEncodeFrom (lzwEncInit m) d) = bits at h hpending
  cases d with
  | nil =>
    obtain ⟨rest, rfl, hrest⟩ := hpending.last
    obtain ⟨t, hstep, hended⟩ := h.ends hrest
    exact ⟨1, t, run_step hstep 0, hended⟩
  | cons c cs =>
    rw [List.length_cons] at hlen
    have hw' := lzwEncByte_keeps hw (show 0 < lw.n by omega) c
    exact h.decodes (w := { lzwEncInit m with i := 1, pre := some c.toNat }) (.fresh rfl rfl rfl rfl rfl rfl rfl)
      (List.cons_ne_nil c []) hw' (by rw [← hlen, Nat.add_comm]) hpending hroom

end

/-! ### O38 -/

/-- Where LZW_ENC, left alone, ends normally, it has written its code stream. -/
theorem lzwEnc_writes {l : Latch} {s t : State} {w : LzwEncWork} {cs : List Byte} {k : Nat} (hh : s.host = [])
    (he : s.engine = .run l (.lzwEnc w)) (hin : (regionBytes s l).drop w.i = cs) (hcap : l.cap < 2 ^ 32)
    (hle : s.dstLen.toNat ≤ l.cap) (hrun : Host.Core.run core k s = .next t) (hidle : t.engine = .idle)
    (hstatus : t.status = 0b00010) : outCells t = outCells s ++ (lzwEncodeFrom w cs).map some := by
  obtain ⟨j, t', hrun', hended⟩ := lzwEnc_run hh he hin hcap hle
  have hidle' : t'.engine = .idle := by cases hended <;> rfl
  obtain rfl : t = t' := run_idle_unique hh hrun hrun' hidle hidle'
  cases hended with
  | finished hroom => exact outCells_putAll (Nat.lt_of_le_of_lt hroom hcap)
  | overflowed => exact absurd hstatus (by decide : statusFaulted ≠ 0b00010)

/-- LZW_ENC, started and left alone to a normal end: `max_code_width` was legal, and OUT holds the code stream. -/
theorem lzwEnc_ends {s s1 t : State} {k : Nat} (hs : ReadyToStart s) (hh : s.host = [])
    (hexec : exec .lzwEnc s = .next s1) (hrun : Host.Core.run core k s1 = .next t) (hidle : t.engine = .idle)
    (hstatus : t.status = 0b00010) :
    (9 ≤ (s.arg0.setWidth 8).toInt ∧ (s.arg0.setWidth 8).toInt ≤ 12) ∧
      outCells t =
        (lzwEncodeFrom (lzwEncInit (s.arg0.setWidth 8).toInt.toNat) (regionBytes s (latchOf s))).map some := by
  obtain ⟨hlegal, hillegal⟩ := lzwCommandsStart s _ rfl hs
  by_cases hm : 9 ≤ (s.arg0.setWidth 8).toInt ∧ (s.arg0.setWidth 8).toInt ≤ 12
  case neg =>
    cases hexec.symm.trans (hillegal (by omega)).2
    cases (run_idle (s := raise .badParameter 0 (s.begin 0x04)) rfl hh k).symm.trans hrun
    exact absurd hstatus (by decide : statusFaulted ≠ 0b00010)
  case pos =>
    refine ⟨hm, ?_⟩
    cases hexec.symm.trans (hlegal hm.1 hm.2).2
    exact lzwEnc_writes (s := (s.begin 0x04).setRun (latchOf s) _) hh rfl rfl (latchOf_cap_lt s) (Nat.zero_le _) hrun
      hidle hstatus

/-- Settles O38: LZW_ENC leaves its code stream (O37), and LZW_DEC, one entry behind, reads each code at the width it
was written at and has its string. -/
theorem lzwRoundTrip : Obligations.LzwRoundTrip := by
  intro s s1 t u u1 k hs hsh hexec hrun hidle hstatus hu huh harg hlen hcells hcap hexec'
  obtain ⟨⟨hge, hle⟩, hout⟩ := lzwEnc_ends hs hsh hexec hrun hidle hstatus
  have hregion := regionBytes_of_outCells hu hlen hcells hout
  have hstart := ((lzwCommandsStart u _ rfl hu).1 (harg ▸ hge) (harg ▸ hle)).1
  rw [harg] at hstart
  cases hexec'.symm.trans hstart
  have hwidth : lzwMaxWidth? (latchOf u) = some (s.arg0.setWidth 8).toInt.toNat := by
    rw [lzwMaxWidth?_legal (s := u) (harg ▸ ⟨hge, hle⟩), harg]
  have hat : LzwDecAt (latchOf u) (lzwDecInit (s.arg0.setWidth 8).toInt.toNat) [] _
      ((u.begin 0x03).setRun (latchOf u) (.lzwDec (lzwDecInit (s.arg0.setWidth 8).toInt.toNat))) :=
    { host := huh
      run := rfl
      ok := .start hwidth
      cap_lt := latchOf_cap_lt u
      out := rfl
      bits := congrArg byteBits hregion }
  obtain ⟨j, v, hrunv, hidlev, hstatusv, houtv⟩ :=
    hat.decodes_all (regionBytes_length s (latchOf s)) (.start (lzwMaxWidth?_legal ⟨hge, hle⟩))
      (by rw [regionBytes_length]; exact hcap)
  exact ⟨j, v, hrunv, hidlev, hstatusv, outCells_of_regionBytes hs houtv⟩

end Sys2Proof.Machine

/-! # No step meets a token its command cannot fetch -/

namespace Sys2Proof.Machine

/-! ## The VLC tables read every lookahead -/

/-- The node stands in the tables (R25, R77). -/
def VlcNodeIn (t : VlcTables) : VlcNode → Prop
  | .leaf _ => True
  | .inner i => i < t.tab1.length

section
variable {t : VlcTables} {sit : Mem Word}

theorem vlcChild_nodeIn {c : Nat} (h : c < t.s + t.tab1.length) : VlcNodeIn t (vlcChild t.s c) := by
  unfold vlcChild
  split
  · trivial
  · show c - t.s < t.tab1.length
    omega

theorem vlcRoot_nodeIn (t : VlcTables) : VlcNodeIn t (vlcRoot t) := by
  unfold vlcRoot
  split
  · trivial
  · show t.tab1.length - 1 < t.tab1.length
    omega

/-- A walk of built tables never steps to a pair that does not exist (R236). -/
theorem TablesBuilt.descends (h : TablesBuilt t sit) {node : VlcNode} (hnode : VlcNodeIn t node)
    (bits : List Bool) : ∃ node' k, vlcDescend t node bits = some (node', k) ∧ VlcNodeIn t node' := by
  obtain ⟨-, -, -, hchildren, -⟩ := h
  induction bits generalizing node with
  | nil => cases node <;> exact ⟨_, _, rfl, hnode⟩
  | cons b bs ih =>
    cases node with
    | leaf idx => exact ⟨_, _, rfl, trivial⟩
    | inner i =>
      have hpair : t.tab1[i]? = some t.tab1[i] := List.getElem?_eq_getElem hnode
      have hpick : vlcPick t.tab1[i] b < t.s + t.tab1.length := by
        obtain ⟨hleft, hright⟩ := hchildren _ (List.getElem_mem hnode)
        cases b
        · exact hleft
        · exact hright
      obtain ⟨node', k, hwalk, hin⟩ := ih (vlcChild_nodeIn hpick)
      refine ⟨node', k + 1, ?_, hin⟩
      rw [vlcDescend, hpair]
      simp only [hwalk, Option.map_some]

/-- A walk that ends in a terminal has read only the bits up to it. -/
theorem vlcDescend_take {node : VlcNode} {bits : List Bool} {idx k : Nat}
    (h : vlcDescend t node bits = some (.leaf idx, k)) (more : List Bool) :
    k ≤ bits.length ∧ vlcDescend t node (bits.take k ++ more) = some (.leaf idx, k) := by
  induction bits generalizing node k with
  | nil =>
    cases node with
    | leaf j =>
      cases h
      exact ⟨Nat.le_refl 0, by rw [vlcDescend]⟩
    | inner i => cases h
  | cons b bs ih =>
    cases node with
    | leaf j =>
      rw [vlcDescend] at h
      cases h
      exact ⟨Nat.zero_le _, by rw [vlcDescend]⟩
    | inner i =>
      rw [vlcDescend] at h
      split at h
      case h_1 => cases h
      case h_2 pr hpair =>
        obtain ⟨⟨node', k'⟩, hwalk, heq⟩ := Option.map_eq_some_iff.1 h
        cases heq
        obtain ⟨hle, htake⟩ := ih hwalk
        refine ⟨Nat.succ_le_succ hle, ?_⟩
        rw [List.take_succ_cons, List.cons_append, vlcDescend, hpair]
        simp only [htake, Option.map_some]

theorem vlcDescend_tab2 (tab1 : List Tab1Pair) (tab2 tab2' : List Tab2Entry) (sc : Nat) (node : VlcNode)
    (bits : List Bool) :
    vlcDescend { tab1 := tab1, tab2 := tab2, s := sc } node bits =
      vlcDescend { tab1 := tab1, tab2 := tab2', s := sc } node bits := by
  induction bits generalizing node with
  | nil => cases node <;> rfl
  | cons b bs ih =>
    cases node with
    | leaf idx => rw [vlcDescend, vlcDescend]
    | inner i => simp only [vlcDescend, ih]

theorem vlcEntries_getElem? {vs : List Nat} {es : List Tab2Entry} (h : vlcEntries t sit vs = some es) {j v : Nat}
    (hj : vs[j]? = some v) : ∃ e, es[j]? = some e ∧ vlcEntryFor t sit v = some e := by
  induction vs generalizing es j with
  | nil => cases hj
  | cons v' vs ih =>
    rw [vlcEntries] at h
    split at h
    case h_2 => cases h
    case h_1 e es' hentry hrest =>
      cases h
      cases j with
      | zero =>
        cases hj
        exact ⟨e, rfl, hentry⟩
      | succ j => exact ih hrest hj

theorem vlcLookahead_lt (bits : List Bool) : vlcLookahead bits < 256 :=
  (bitsToNat_lt _).trans_le (Nat.pow_le_pow_right (by decide) (List.length_take_le 8 bits))

/-- The entry a lookahead selects is what the walk of its eight bits from the root finds (R237). -/
theorem TablesBuilt.entry (h : TablesBuilt t sit) (bits : List Bool) :
    ∃ e node k, vlcEntry t bits = some e ∧
      vlcDescend t (vlcRoot t) (natToBits (vlcLookahead bits) 8) = some (node, k) ∧ vlcEntryAt sit node k = some e := by
  obtain ⟨-, -, -, -, hderive⟩ := h
  obtain ⟨e, he, hfor⟩ := vlcEntries_getElem? hderive (List.getElem?_range (vlcLookahead_lt bits))
  unfold vlcEntryFor at hfor
  split at hfor
  case h_1 => cases hfor
  case h_2 node k hwalk => exact ⟨e, node, k, he, (vlcDescend_tab2 _ _ _ _ _ _).trans hwalk, hfor⟩

theorem vlcEntryAt_terminal {node : VlcNode} {k : Nat} {e : Tab2Entry} (h : vlcEntryAt sit node k = some e)
    (hkind : e.kind = .terminal) : ∃ idx, node = .leaf idx ∧ e.len = k := by
  cases node with
  | inner i =>
    cases h
    cases hkind
  | leaf idx =>
    rw [vlcEntryAt] at h
    split at h
    · cases h
      cases hkind
    · obtain ⟨v, -, rfl⟩ := Option.map_eq_some_iff.1 h
      exact ⟨idx, rfl, rfl⟩

theorem vlcEntryAt_deferred {node : VlcNode} {k : Nat} {e : Tab2Entry} (h : vlcEntryAt sit node k = some e)
    (hkind : e.kind = .deferred) : ∃ i, node = .inner i ∧ e.val = BitVec.ofNat 32 i := by
  cases node with
  | inner i =>
    cases h
    exact ⟨i, rfl, rfl⟩
  | leaf idx =>
    rw [vlcEntryAt] at h
    split at h
    · cases h
      cases hkind
    · obtain ⟨v, -, rfl⟩ := Option.map_eq_some_iff.1 h
      cases hkind

/-- The node of a deferred entry stands in the tables (R237). -/
theorem TablesBuilt.deferred_nodeIn (h : TablesBuilt t sit) {bits : List Bool} {e : Tab2Entry}
    (he : vlcEntry t bits = some e) (hkind : e.kind = .deferred) : VlcNodeIn t (.inner e.val.toNat) := by
  obtain ⟨e', node, k, he', hwalk, hat⟩ := h.entry bits
  cases he.symm.trans he'
  obtain ⟨i, rfl, hval⟩ := vlcEntryAt_deferred hat hkind
  obtain ⟨node', k', hwalk', hin⟩ := h.descends (vlcRoot_nodeIn t) (natToBits (vlcLookahead bits) 8)
  cases hwalk.symm.trans hwalk'
  obtain ⟨-, -, hcnt, -, -⟩ := h
  have hlt : i < t.tab1.length := hin
  rwa [hval, BitVec.toNat_ofNat, Nat.mod_eq_of_lt (by omega)]

/-- Built tables have an entry for every lookahead and a node for every deferred one (R237). -/
theorem TablesBuilt.decodeVlc_ne_noTable (h : TablesBuilt t sit) (bits : List Bool) :
    decodeVlc t bits ≠ .error .noTable := by
  obtain ⟨e, -, -, he, -⟩ := h.entry bits
  rw [decodeVlc, he]
  dsimp only
  split
  · split <;> nofun
  · split <;> nofun
  case h_3 hkind =>
    obtain ⟨node, k, hwalk, -⟩ := h.descends (h.deferred_nodeIn he hkind) (bits.drop Config.vlcLook)
    rw [hwalk]
    split
    · nofun
    · cases node <;> nofun

/-- The lookahead's eight bits are the next bits, and zero bits past their end (R242). -/
theorem natToBits_vlcLookahead (bits : List Bool) :
    natToBits (vlcLookahead bits) 8 = bits.take 8 ++ List.replicate (8 - (bits.take 8).length) false :=
  natToBits_bitsToNat_of_le (List.length_take_le 8 bits)

theorem vlcEntry_congr {bits bits' : List Bool} (h : bits'.take 8 = bits.take 8) :
    vlcEntry t bits' = vlcEntry t bits := by
  rw [vlcEntry, vlcEntry, vlcLookahead, vlcLookahead, Config.vlcLook, h]

/-- The bits of a terminal select its entry by themselves (R237, R243). -/
theorem TablesBuilt.entry_take (h : TablesBuilt t sit) {bits : List Bool} {e : Tab2Entry}
    (he : vlcEntry t bits = some e) (hkind : e.kind = .terminal) (hlen : e.len ≤ bits.length) :
    vlcEntry t (bits.take e.len) = some e := by
  obtain ⟨e', node, k, he', hwalk, hat⟩ := h.entry bits
  cases he.symm.trans he'
  obtain ⟨idx, rfl, rfl⟩ := vlcEntryAt_terminal hat hkind
  have hlook := natToBits_vlcLookahead bits
  have hk : e.len ≤ 8 := by simpa using (vlcDescend_take hwalk []).1
  have hsame : (natToBits (vlcLookahead bits) 8).take e.len = (bits.take e.len).take 8 := by
    rw [hlook, List.take_append_of_le_length (by rw [List.length_take]; omega), List.take_take, List.take_take,
      Nat.min_comm]
  obtain ⟨e', node, k, he', hwalk', hat'⟩ := h.entry (bits.take e.len)
  rw [natToBits_vlcLookahead, ← hsame, (vlcDescend_take hwalk _).2] at hwalk'
  cases hwalk'
  cases hat.symm.trans hat'
  exact he'

theorem vlcEntry_take {n : Nat} (hn : 8 ≤ n) (bits : List Bool) : vlcEntry t (bits.take n) = vlcEntry t bits :=
  vlcEntry_congr (by rw [List.take_take, Nat.min_eq_left hn])

/-- A zero run's path and run field, written back, are the bits they were read from (R244). -/
theorem vlcZrun_bits {bits : List Bool} {n : Nat} (h : n + 10 ≤ bits.length) :
    (bits.take n).length = n ∧
      bits.take n ++ natToBits (bitsToNat ((bits.drop n).take 10)) 10 = bits.take (n + 10) := by
  have hlen : ((bits.drop n).take 10).length = 10 := by
    rw [List.length_take, List.length_drop]
    omega
  have hfield := natToBits_bitsToNat ((bits.drop n).take 10)
  rw [hlen] at hfield
  refine ⟨List.length_take_of_le (by omega), ?_⟩
  rw [hfield, List.take_add]

/-- What built tables read is a token that fits them (R243 to R245). -/
theorem TablesBuilt.fits_of_decodeVlc (h : TablesBuilt t sit) {bits rest : List Bool} {i : Instr}
    (hi : decodeVlc t bits = .ok (i, rest)) (lzw : LzwCtx) : i.fits { lzw := lzw, vlc := t } = true := by
  obtain ⟨e, -, -, he, -⟩ := h.entry bits
  rw [decodeVlc, he] at hi
  dsimp only at hi
  split at hi
  case h_1 hkind =>
    split at hi
    case isTrue => cases hi
    case isFalse hshort =>
      cases hi
      have hlen := Nat.le_of_not_lt hshort
      simp [Instr.fits, h.entry_take he hkind hlen, hkind, hlen]
  case h_2 hkind =>
    split at hi
    case isTrue => cases hi
    case isFalse hshort =>
      cases hi
      obtain ⟨hpath, hbits⟩ := vlcZrun_bits (Nat.le_of_not_lt hshort)
      simp only [Instr.fits, Config.vlcZrunBits, hbits, hpath, vlcEntry_take (Nat.le_add_left 8 (e.len + 2)), he, hkind,
        and_self, decide_true]
  case h_3 hkind =>
    split at hi
    case isTrue => cases hi
    case isFalse hlong =>
      split at hi
      · cases hi
      · cases hi
      case h_3 idx k hwalk =>
        cases hi
        obtain ⟨hk, htake⟩ := vlcDescend_take hwalk []
        have hpath : (bits.take (Config.vlcLook + k)).length = Config.vlcLook + k := by
          rw [List.length_drop] at hk
          exact List.length_take_of_le (by omega)
        have hentry : vlcEntry t (bits.take (Config.vlcLook + k)) = some e :=
          (vlcEntry_take (Nat.le_add_right 8 k) bits).trans he
        rw [List.append_nil, List.take_drop] at htake
        simp only [Instr.fits, hpath, hentry, htake, hkind, and_self, decide_true]

end

/-! ## A step stops only as expected -/

/-- The outcome is a next state or a stop the spec or the platform asks for. -/
def Expected (o : Out) : Prop := expectedStop o = true

theorem Expected.of_eq {o o' : Out} (h : o = o') (ho : Expected o') : Expected o := h ▸ ho

theorem expected_next (s : State) : Expected (.next s) := rfl

theorem expected_afterEmit {r : Except State State} {k : State → Out} (hk : ∀ t, Expected (k t)) :
    Expected (afterEmit r k) := by
  cases r with
  | error e => rfl
  | ok t => exact hk t

/-! ### Command starts -/

theorem expected_requireInput {s : State} {l : Latch} {k : Out} (hk : Expected k) : Expected (requireInput s l k) := by
  unfold requireInput
  split
  · exact hk
  · rfl

theorem expected_startCommand {c : Reg} {s : State} {k : State → Out} (hk : ∀ t, Expected (k t)) :
    Expected (startCommand c s k) := by
  unfold startCommand
  split
  · rfl
  · exact hk _

theorem expected_checkOperands {s : State} {k : Latch → State → Out} (hk : ∀ l t, Expected (k l t)) :
    Expected (checkOperands s k) := by
  unfold checkOperands
  split
  · exact hk _ _
  · rfl

theorem expected_startFamily {c : Reg} {s : State} {k : Latch → State → Out} (hk : ∀ l t, Expected (k l t)) :
    Expected (startFamily c s k) :=
  expected_startCommand fun _ => expected_checkOperands hk

/-- A command is refused on unwritten input only (R303). -/
theorem expected_command {i : Instr} (hi : isCommand i = true) (s : State) : Expected (exec i s) := by
  cases i with
  | clear => exact expected_startCommand (c := commandWord 0x0F) fun _ => expected_next _
  | lzssDec | rleDec | rleEnc => exact expected_startFamily fun _ _ => expected_requireInput (expected_next _)
  | lzssEnc =>
    refine expected_startFamily fun l t => expected_requireInput ?_
    split <;> rfl
  | lzwDec | lzwEnc =>
    refine expected_startFamily fun l t => ?_
    split
    · rfl
    · exact expected_requireInput rfl
  | waveletInv =>
    refine expected_startFamily fun l t => ?_
    split_ifs
    · rfl
    · rfl
    · rfl
    · exact expected_requireInput rfl
  | vlcBuild =>
    refine expected_startCommand fun _ => expected_checkOperands fun l t => ?_
    split_ifs
    · rfl
    · rfl
    · refine expected_requireInput ?_
      dsimp only
      split <;> rfl
  | vlcDecode =>
    refine expected_startFamily fun l t => ?_
    split
    · rfl
    · exact expected_requireInput rfl
  | _ => cases hi

/-! ### Tokens in their decoder -/

theorem expected_rleToken {s : State} {l : Latch} {w : RleDecWork} (he : s.engine = .run l (.rleDec w)) {i : Instr}
    {bs : List Byte} (hi : encode i = .rle bs) : Expected (exec i s) := by
  cases i with
  | rleByte | rleEsc =>
    exact .of_eq (withRleDec_run he _) (expected_afterEmit fun _ => rfl)
  | rleRun n =>
    refine .of_eq (withRleDec_run he _) ?_
    split
    · rfl
    · exact expected_afterEmit fun _ => rfl
  | _ => cases hi

theorem expected_lzssSlide (l : Latch) (w : LzssDecWork) (s : State) : Expected (lzssSlide l w s) := by
  unfold lzssSlide
  split
  · exact expected_afterEmit fun _ => rfl
  · rfl

theorem expected_lzssCopy (len dist : Nat) (l : Latch) (w : LzssDecWork) (s : State) :
    Expected (lzssCopy len dist l w s) := by
  unfold lzssCopy
  split
  · rfl
  · exact expected_lzssSlide _ _ _

theorem expected_lzssToken {s : State} {l : Latch} {w : LzssDecWork} (he : s.engine = .run l (.lzssDec w)) {i : Instr}
    {us : List LzssUnit} (hi : encode i = .lzss us) : Expected (exec i s) := by
  cases i with
  | lzssLit | lzssSeg =>
    exact .of_eq (withLzssDec_run he _) (expected_lzssSlide _ _ _)
  | lzssSref | lzssLref | lzssXref =>
    exact .of_eq (withLzssDec_run he _) (expected_lzssCopy _ _ _ _ _)
  | lzssEnd =>
    exact .of_eq (withLzssDec_run he _) (expected_afterEmit fun _ => rfl)
  | _ => cases hi

/-- A code of a legal dictionary has its string, or for KWK the previous code has (R166, R168). -/
theorem expected_lzwCode {s : State} {l : Latch} {w : LzwDecWork} (he : s.engine = .run l (.lzwDec w))
    (hw : LzwDecOk l w) {i : Instr} {k : Nat} (hi : decodeLzw (lzwCtxOf w) k = .ok i) : Expected (exec i s) := by
  unfold decodeLzw at hi
  split at hi
  · cases hi
    rw [exec_lzwByte he]
    exact expected_afterEmit fun _ => rfl
  split at hi
  · cases hi
    exact .of_eq (withLzwDec_run he _) rfl
  case isFalse hbyte hclear =>
    have hfirst : 257 ≤ k := Nat.lt_of_le_of_ne (Nat.le_of_not_lt hbyte) (Ne.symm hclear)
    split at hi
    case isTrue hold =>
      cases hi
      have hold' : k < 257 + w.dict.length := hold
      rw [exec_lzwEntry he hfirst (List.getElem?_eq_getElem (by omega))]
      exact expected_afterEmit fun _ => rfl
    split at hi
    case isTrue hkwk =>
      cases hi
      obtain ⟨rfl, hprev, hroom⟩ := hkwk
      obtain ⟨pc, hpc⟩ := Option.isSome_iff_exists.1 hprev
      obtain ⟨ps, hps⟩ := Option.isSome_iff_exists.1 (hw.prev_str pc hpc)
      exact .of_eq (exec_lzwKwk he hpc hps hroom) (expected_afterEmit fun _ => rfl)
    · cases hi

/-- A token that fits the tables has an entry and, where it is deep, a leaf; SIT may be unwritten there (R303). -/
theorem expected_vlcToken {s : State} {l : Latch} {w : VlcDecodeWork} (he : s.engine = .run l (.vlcDecode w))
    {i : Instr} {bits : List Bool} (hi : encode i = .vlc bits)
    (hfits : i.fits { lzw := { next := 0, maxW := 0, havePrev := false }, vlc := tablesOf s } = true) :
    Expected (exec i s) := by
  cases i with
  | vlcTerm path =>
    refine .of_eq (withVlcDecode_run he hfits _) ?_
    obtain ⟨e, hentry, -⟩ := fits_vlcTerm hfits
    simp only [hentry]
    split
    · rfl
    · exact expected_afterEmit fun _ => rfl
  | vlcZrun path run =>
    exact .of_eq (withVlcDecode_run he hfits _) (expected_afterEmit fun _ => rfl)
  | vlcDeep path =>
    refine .of_eq (withVlcDecode_run he hfits _) ?_
    obtain ⟨e, idx, k, hentry, hwalk, -⟩ := fits_vlcDeep hfits
    have hidx : vlcDeepIndex (tablesOf s) path = some idx := by
      rw [vlcDeepIndex, hentry]
      simp only [hwalk]
    simp only [hidx]
    split
    · rfl
    · exact expected_afterEmit fun _ => rfl
  | _ => cases hi

/-! ### The turns of the engine -/

section
variable {s : State} {l : Latch}

theorem expected_rleDecTurn (w : RleDecWork) : Expected (runTurn (rleDecTurn l w s)) := by
  unfold rleDecTurn
  split
  · rfl
  · dsimp only
    split
    · rfl
    case h_2 hi =>
      obtain ⟨bs, hbs⟩ := decodeRle_encode hi
      exact expected_rleToken rfl hbs

theorem expected_rleEncTurn (w : RleEncWork) : Expected (rleEncTurn l w s) := by
  unfold rleEncTurn
  split
  · exact expected_afterEmit fun _ => rfl
  · rfl

theorem expected_lzssDecTurn (w : LzssDecWork) : Expected (runTurn (lzssDecTurn l w s)) := by
  unfold lzssDecTurn
  dsimp only
  split
  · exact expected_afterEmit fun _ => rfl
  · split
    · rfl
    case h_2 hi =>
      obtain ⟨us, hus⟩ := (lzssFetch_token hi).1.units
      exact expected_lzssToken rfl hus

theorem expected_lzssEncTurn (w : LzssEncWork) : Expected (lzssEncTurn l w s) := by
  unfold lzssEncTurn
  split
  · dsimp only
    split <;> rfl
  · split
    · rfl
    · exact expected_afterEmit fun _ => rfl

theorem expected_lzwDecTurn {w : LzwDecWork} (hw : LzwDecOk l w) : Expected (runTurn (lzwDecTurn l w s)) := by
  unfold lzwDecTurn
  dsimp only
  split
  · rfl
  case isFalse hbits =>
    split
    · rfl
    case h_2 hi => exact expected_lzwCode rfl (hw.read (Nat.le_of_not_lt hbits)) hi

theorem expected_lzwEncTurn (w : LzwEncWork) : Expected (lzwEncTurn l w s) := by
  unfold lzwEncTurn
  split <;> exact expected_afterEmit fun _ => rfl

theorem expected_waveletTurn (w : WaveletWork) : Expected (waveletTurn l w s) := by
  unfold waveletTurn
  split
  · rfl
  · split
    · split <;> rfl
    · rfl

theorem expected_vlcBuildTurn (w : VlcBuildWork) : Expected (vlcBuildTurn l w s) := by
  unfold vlcBuildTurn
  split
  · rfl
  · unfold vlcBuildEnd
    split
    · rfl
    · split <;> rfl

/-- On built tables VLC_DECODE reads a token that fits them, or none (R241, R246). -/
theorem expected_vlcDecodeTurn {w : VlcDecodeWork} (he : s.engine = .run l (.vlcDecode w))
    (hbuilt : TablesBuilt (tablesOf s) s.sit) : Expected (runTurn (vlcDecodeTurn l w s)) := by
  unfold vlcDecodeTurn
  split
  · rfl
  split
  · rfl
  split
  case h_1 hi =>
    obtain ⟨bits, hbits⟩ := decodeVlc_encode hi
    exact expected_vlcToken he hbits (hbuilt.fits_of_decodeVlc hi _)
  case h_2 hnone => exact absurd hnone (hbuilt.decodeVlc_ne_noTable _)
  case h_3 => rfl

theorem expected_engineTurn {w : Work} (he : s.engine = .run l w) (htab : TabOk s) (hlzw : LzwInv s) :
    Expected (runTurn (engineTurn l w s)) := by
  cases w with
  | lzssDec w => exact expected_lzssDecTurn w
  | lzssEnc w => exact expected_lzssEncTurn w
  | lzwDec w => exact expected_lzwDecTurn (hlzw.1 l w he)
  | lzwEnc w => exact expected_lzwEncTurn w
  | rleDec w => exact expected_rleDecTurn w
  | rleEnc w => exact expected_rleEncTurn w
  | wavelet w => exact expected_waveletTurn w
  | vlcBuild w => exact expected_vlcBuildTurn w
  | vlcDecode w => exact expected_vlcDecodeTurn he (htab.valid (htab.decoding l w he)).1

end

/-! ### The accesses of the host -/

theorem expected_inAperture (there : Bool) (s : State) : Expected (runTurn (inAperture there s)) := by
  cases there <;> rfl

theorem expected_hostWriteReg (r : Nat) (v : Reg) (s : State) : Expected (runTurn (hostWriteReg r v s)) := by
  unfold hostWriteReg
  split
  · split
    case h_1 hi => exact expected_command (decodeCommand_isCommand hi) s
    case h_2 => exact expected_startCommand fun _ => expected_next _
  · rfl

theorem expected_hostTurn (op : HostOp) (s : State) : Expected (runTurn (hostTurn op s)) := by
  cases op with
  | writeReg r v =>
    unfold hostTurn
    dsimp only
    split
    · exact expected_hostWriteReg r v s
    · rfl
  | readReg | reset => rfl
  | writeIn | readIn | readOut | writeSit | readSit => exact expected_inAperture _ _

/-! ### O58 -/

/-- Settles O58: the engine's token is one its decoder's tables or dictionary read, so it has a meaning; a command and
an access of the host stop only where R303 or the aperture says. -/
theorem noUnexpectedStop : Obligations.NoUnexpectedStop := by
  intro s _ htab hlzw
  rcases step_cases s with ⟨-, -, hstep⟩ | ⟨l, w, q, he, hstep⟩ | ⟨e, rest, -, hstep⟩
  · rw [hstep]
    rfl
  · rw [hstep]
    have htab' : TabOk (s.setHost q) := ⟨htab.valid, htab.invalid, htab.busy, htab.building, htab.decoding⟩
    exact expected_engineTurn (s := s.setHost q) he htab' hlzw
  · rw [hstep]
    exact expected_hostTurn e.op _

end Sys2Proof.Machine

/-! PROOFS. The family of `43_rle.md`: what a step of RLE_DEC and each of its tokens do, that the decoder inverts the
encoder group by group, and the runs of both to their ends. -/

/-! # RLE_DEC, token by token -/

namespace Sys2Proof.Machine

/-! ## Reading a token -/

theorem decodeRle_byte {b : Byte} (h : b ≠ 0x90) (tl : List Byte) : decodeRle (b :: tl) = .ok (.rleByte b, tl) :=
  if_neg h

theorem decodeRle_control (n : Byte) (tl : List Byte) :
    decodeRle (0x90 :: n :: tl) = if n.toNat = 0 then .ok (.rleEsc, tl) else .ok (.rleRun n.toNat, tl) := rfl

/-- What is read as a token is its encoding (R74). -/
theorem encode_of_decodeRle {bs rest : List Byte} {i : Instr} (h : decodeRle bs = .ok (i, rest)) :
    i.wellFormed = true ∧ ∃ us, encode i = .rle us ∧ bs = us ++ rest := by
  cases bs with
  | nil => cases h
  | cons b tl =>
    by_cases hctl : b = 0x90
    case neg =>
      cases (decodeRle_byte hctl tl).symm.trans h
      exact ⟨decide_eq_true hctl, [b], rfl, rfl⟩
    case pos =>
      subst hctl
      cases tl with
      | nil => cases h
      | cons n tl =>
        rw [decodeRle_control] at h
        split at h
        case isTrue hzero =>
          obtain rfl : n = 0 := BitVec.eq_of_toNat_eq hzero
          cases h
          exact ⟨rfl, [0x90, 0], rfl, rfl⟩
        case isFalse hpos =>
          cases h
          have hbyte : BitVec.ofNat 8 n.toNat = n := by rw [BitVec.ofNat_toNat, BitVec.setWidth_eq]
          refine ⟨decide_eq_true ⟨Nat.pos_of_ne_zero hpos, Nat.le_of_lt_succ n.isLt⟩, [0x90, n], ?_, rfl⟩
          rw [encode, hbyte]
          rfl

/-- The bytes after a token do not change how it is read (R74). -/
theorem decodeRle_append {us : List Byte} {i : Instr} (h : decodeRle us = .ok (i, [])) (more : List Byte) :
    decodeRle (us ++ more) = .ok (i, more) := by
  cases us with
  | nil => cases h
  | cons b tl =>
    by_cases hctl : b = 0x90
    case neg =>
      cases (decodeRle_byte hctl tl).symm.trans h
      exact decodeRle_byte hctl more
    case pos =>
      subst hctl
      cases tl with
      | nil => cases h
      | cons n tl =>
        rw [decodeRle_control] at h
        split at h
        case isTrue hzero =>
          cases h
          exact if_pos hzero
        case isFalse hpos =>
          cases h
          exact if_neg hpos

theorem rleToken_length {i : Instr} {us : List Byte} (henc : encode i = .rle us) : 1 ≤ us.length ∧ us.length ≤ 2 := by
  cases i with
  | rleByte | rleEsc | rleRun =>
    cases henc
    exact ⟨by simp, by simp⟩
  | _ => cases henc

/-! ### O8 -/

theorem inBytes_add (s : State) (a m n : Nat) : inBytes s a (m + n) = inBytes s a m ++ inBytes s (a + m) n := by
  simp only [inBytes, List.range_add, List.map_append, List.map_map, Nat.add_assoc]
  rfl

section
variable {s : State} {l : Latch} {w : RleDecWork}

/-- The token whose encoding stands at `ip` runs, `ip` past it (R191). -/
theorem step_rleToken (hh : s.host = []) (he : s.engine = .run l (.rleDec w)) {i : Instr} {us : List Byte}
    (hwf : i.wellFormed = true) (henc : encode i = .rle us) (hend : w.ip + us.length ≤ regionEnd l)
    (hus : inBytes s w.ip us.length = us) :
    step s = exec i (s.setRun l (.rleDec { w with ip := w.ip + us.length })) := by
  obtain ⟨hpos, htwo⟩ := rleToken_length henc
  obtain ⟨m, hm⟩ : ∃ m, min 2 (regionEnd l - w.ip) = us.length + m := Nat.exists_eq_add_of_le (by omega)
  have hread : inBytes s w.ip (us.length + m) = us ++ inBytes s (w.ip + us.length) m := by rw [inBytes_add, hus]
  rw [step_engine he hh, engineTurn, rleDecTurn, if_neg (by omega)]
  simp only [hm, hread, decodeRle_append (decodeRle_of_encode hwf henc), runTurn_instr, List.length_append,
    Nat.add_sub_cancel]

/-- A control byte that ends the region has no count (R194). -/
theorem step_rleTruncated (hh : s.host = []) (he : s.engine = .run l (.rleDec w)) (hend : w.ip + 1 = regionEnd l)
    (hctl : inByte s w.ip = 0x90) : step s = .next (raise .truncatedInput (regionEnd l) s) := by
  have hone : min 2 (regionEnd l - w.ip) = 0 + 1 := by omega
  have hread : inBytes s w.ip (0 + 1) = [0x90] := by rw [inBytes_succ, hctl]; rfl
  rw [step_engine he hh, engineTurn, rleDecTurn, if_neg (by omega)]
  simp only [hone, hread]
  rfl

/-- At the end of the region RLE_DEC finishes (R191). -/
theorem step_rleEnd (hh : s.host = []) (he : s.engine = .run l (.rleDec w)) (hend : regionEnd l ≤ w.ip) :
    step s = .next (finish 0 l.n s) := by
  rw [step_engine he hh, engineTurn, rleDecTurn, if_pos hend, runTurn_own]

/-- Settles O8: the fetch reads at most two bytes, and a token is the same whatever follows it. -/
theorem rleStepRunsTheToken : Obligations.RleStepRunsTheToken :=
  fun _ _ _ hh he => ⟨fun _ _ => step_rleToken hh he, step_rleTruncated hh he⟩

/-! ### O23 -/

/-- What a token outputs and the byte that is then the previous one, `last` being the previous one before it; nothing
for a RUN with no byte to repeat (R192, R193, R195). -/
def rleTokenOutput (last : Option Byte) : Instr → Option (List Byte × Byte)
  | .rleByte b => some ([b], b)
  | .rleEsc => some ([0x90], 0x90)
  | .rleRun n => last.map fun b => (List.replicate (n - 1) b, b)
  | _ => none

/-- With room, a token's meaning is its output. -/
theorem exec_rleToken (he : s.engine = .run l (.rleDec w)) {i : Instr} {bs : List Byte} {b : Byte}
    (hout : rleTokenOutput w.last i = some (bs, b)) (hroom : Room s l bs.length) :
    exec i s = .next ((withOutput s bs).setRun l (.rleDec { w with last := some b })) := by
  have hrleOut : rleOut bs b l w s = .next ((withOutput s bs).setRun l (.rleDec { w with last := some b })) := by
    rw [rleOut, emitAll_withOutput hroom, afterEmit]
  cases i with
  | rleByte | rleEsc =>
    cases hout
    exact (withRleDec_run he _).trans hrleOut
  | rleRun n =>
    obtain ⟨c, hlast, hpair⟩ := Option.map_eq_some_iff.1 hout
    cases hpair
    exact (exec_rleRun he hlast n).trans hrleOut
  | _ => cases hout

theorem exec_rleRun_noPrevious (he : s.engine = .run l (.rleDec w)) (hlast : w.last = none) (n : Nat) :
    exec (.rleRun n) s = .next (raise .rleNoPrevious w.ip s) := by
  rw [exec, execRleRun, withRleDec_run he, hlast]

end

/-- Settles O23: each token's output; a RUN leaves the previous byte as it is. -/
theorem rleTokenResults : Obligations.RleTokenResults := by
  refine fun s l w he => ⟨fun b hroom => ⟨exec_rleToken he rfl hroom, exec_rleToken he rfl hroom⟩,
    fun n _ => ⟨fun b hlast hroom => ?_, fun hlast => exec_rleRun_noPrevious he hlast n⟩⟩
  have hout : rleTokenOutput w.last (.rleRun n) = some (List.replicate (n - 1) b, b) := by rw [hlast]; rfl
  rw [exec_rleToken he hout (by rwa [List.length_replicate]), ← hlast]

end Sys2Proof.Machine

/-! # The round trip of RLE -/

namespace Sys2Proof.Machine

/-! ## Decoding token by token -/

/-- A token at the head is decoded to its output, and what follows on the byte it leaves (R191). -/
theorem rleDecodeFrom_token {bs rest : List Byte} {i : Instr} (h : decodeRle bs = .ok (i, rest)) (k : Nat)
    (last : Option Byte) :
    rleDecodeFrom (k + 1) last bs =
      (rleTokenOutput last i).bind fun c => (rleDecodeFrom k (some c.2) rest).map (c.1 ++ ·) := by
  have hne : bs ≠ [] := by
    rintro rfl
    cases h
  rw [rleDecodeFrom, if_neg hne]
  simp only [h]
  cases i with
  | rleRun n => cases last <;> rfl
  | _ => rfl

/-- What decodes is nothing, or a token and then what decodes on the byte it leaves. -/
theorem rleDecodeFrom_cases {k : Nat} {last : Option Byte} {bs out : List Byte}
    (h : rleDecodeFrom (k + 1) last bs = some out) :
    (bs = [] ∧ out = []) ∨ ∃ i rest cs b out', decodeRle bs = .ok (i, rest) ∧ rleTokenOutput last i = some (cs, b) ∧
      rleDecodeFrom k (some b) rest = some out' ∧ out = cs ++ out' := by
  by_cases hne : bs = []
  case pos =>
    subst hne
    exact .inl ⟨rfl, (Option.some.inj h).symm⟩
  case neg =>
    cases hi : decodeRle bs with
    | error e =>
      rw [rleDecodeFrom, if_neg hne, hi] at h
      cases h
    | ok r =>
      obtain ⟨i, rest⟩ := r
      rw [rleDecodeFrom_token hi] at h
      obtain ⟨c, hout, hmap⟩ := Option.bind_eq_some_iff.1 h
      obtain ⟨out', hrest, rfl⟩ := Option.map_eq_some_iff.1 hmap
      exact .inr ⟨i, rest, c.1, c.2, out', rfl, hout, hrest, rfl⟩

/-- A literal or an escape decodes to its byte (R192, R193). -/
theorem rleDecodeFrom_literal (b : Byte) (k : Nat) (last : Option Byte) (bs : List Byte) :
    rleDecodeFrom (k + 1) last (rleLiteral b ++ bs) = (rleDecodeFrom k (some b) bs).map (b :: ·) := by
  by_cases hctl : b = 0x90
  case pos =>
    subst hctl
    exact rleDecodeFrom_token (i := .rleEsc) rfl k last
  case neg =>
    have hlit : rleLiteral b = [b] := if_neg hctl
    rw [hlit]
    exact rleDecodeFrom_token (decodeRle_byte hctl bs) k last

/-- A count after the byte `b` decodes to the further copies of it (R195). -/
theorem rleDecodeFrom_run {n : Nat} (hpos : 1 ≤ n) (hmax : n ≤ 255) (b : Byte) (k : Nat) (bs : List Byte) :
    rleDecodeFrom (k + 1) (some b) ([0x90, BitVec.ofNat 8 n] ++ bs) =
      (rleDecodeFrom k (some b) bs).map (List.replicate (n - 1) b ++ ·) := by
  have hdecode := decodeRle_of_encode (i := .rleRun n) (decide_eq_true ⟨hpos, hmax⟩) rfl
  exact rleDecodeFrom_token (decodeRle_append hdecode bs) k (some b)

/-! ## The groups of the encoder -/

theorem rleRunLength_le (b : Byte) (limit : Nat) (d : List Byte) : rleRunLength b limit d ≤ limit :=
  (List.takeWhile_prefix _).length_le.trans (List.length_take_le _ _)

/-- The run at the head is as many copies of its byte (R197). -/
theorem take_rleRunLength (b : Byte) (limit : Nat) (d : List Byte) :
    d.take (rleRunLength b limit d) = List.replicate (rleRunLength b limit d) b := by
  have hprefix : ((d.take limit).takeWhile fun x => x == b) <+: d :=
    (List.takeWhile_prefix _).trans (List.take_prefix _ _)
  rw [rleRunLength, ← List.prefix_iff_eq_take.1 hprefix, List.eq_replicate_iff]
  exact ⟨rfl, fun x hx => eq_of_beq (List.mem_takeWhile_imp (p := fun x => x == b) hx)⟩

theorem rleRunLength_cons_self (b : Byte) (limit : Nat) (d : List Byte) :
    rleRunLength b (limit + 1) (b :: d) = rleRunLength b limit d + 1 := by
  simp [rleRunLength]

/-- R196 to R198: the head's byte, and in a run of three or more its count. -/
theorem rleGroup_cons (b : Byte) (tl : List Byte) :
    rleGroup (b :: tl) =
      if 3 ≤ rleRunLength b 255 (b :: tl) then
        (rleLiteral b ++ [0x90, BitVec.ofNat 8 (rleRunLength b 255 (b :: tl))], rleRunLength b 255 (b :: tl))
      else (rleLiteral b, 1) := rfl

theorem rleLiteral_length_pos (b : Byte) : 1 ≤ (rleLiteral b).length := by
  unfold rleLiteral
  split <;> simp

/-- A group decodes, in at most as many tokens as it has bytes, to the bytes it stands for. -/
theorem rleDecodeFrom_group (b : Byte) (tl : List Byte) :
    ∃ j ≤ (rleGroup (b :: tl)).1.length, ∀ k last bs, rleDecodeFrom (k + j) last ((rleGroup (b :: tl)).1 ++ bs) =
      (rleDecodeFrom k (some b) bs).map ((b :: tl).take (rleGroup (b :: tl)).2 ++ ·) := by
  have hlit := rleLiteral_length_pos b
  rw [rleGroup_cons]
  split
  case isTrue hrun =>
    refine ⟨2, by simp, fun k last bs => ?_⟩
    have hcopies : b :: List.replicate (rleRunLength b 255 (b :: tl) - 1) b =
        List.replicate (rleRunLength b 255 (b :: tl)) b := by
      rw [← List.replicate_succ, Nat.sub_add_cancel (by omega)]
    rw [List.append_assoc, rleDecodeFrom_literal, rleDecodeFrom_run (by omega) (rleRunLength_le _ _ _),
      take_rleRunLength, Option.map_map, ← hcopies]
    rfl
  case isFalse => exact ⟨1, hlit, fun k last bs => rleDecodeFrom_literal b k last bs⟩

theorem rleGroup_snd_pos (b : Byte) (tl : List Byte) : 1 ≤ (rleGroup (b :: tl)).2 := by
  rw [rleGroup_cons]
  split
  case isTrue hrun => exact Nat.le_of_succ_le (Nat.le_of_succ_le hrun)
  case isFalse => exact Nat.le_refl 1

theorem rleEncodeFrom_cons (k : Nat) (b : Byte) (tl : List Byte) :
    rleEncodeFrom (k + 1) (b :: tl) =
      (rleGroup (b :: tl)).1 ++ rleEncodeFrom k ((b :: tl).drop (rleGroup (b :: tl)).2) :=
  if_neg (List.cons_ne_nil b tl)

/-- A group leaves fewer bytes to encode. -/
theorem length_drop_rleGroup {k : Nat} {b : Byte} {tl : List Byte} (h : (b :: tl).length ≤ k + 1) :
    ((b :: tl).drop (rleGroup (b :: tl)).2).length ≤ k := by
  have hpos := rleGroup_snd_pos b tl
  rw [List.length_drop]
  omega

/-! ### O24 -/

/-- An encoding decodes to the bytes encoded, whatever came before it. -/
theorem rleDecodeFrom_rleEncodeFrom {k m : Nat} {d : List Byte} (hk : d.length ≤ k)
    (hm : (rleEncodeFrom k d).length < m) (last : Option Byte) : rleDecodeFrom m last (rleEncodeFrom k d) = some d := by
  induction k generalizing d m last with
  | zero =>
    obtain rfl := List.length_eq_zero_iff.1 (Nat.le_zero.1 hk)
    obtain ⟨m, rfl⟩ := Nat.exists_eq_add_one.2 hm
    rfl
  | succ k ih =>
    cases d with
    | nil =>
      obtain ⟨m, rfl⟩ := Nat.exists_eq_add_one.2 hm
      rfl
    | cons b tl =>
      obtain ⟨j, hj, hgroup⟩ := rleDecodeFrom_group b tl
      rw [rleEncodeFrom_cons] at hm ⊢
      rw [List.length_append] at hm
      obtain ⟨m, rfl⟩ := Nat.exists_eq_add_of_le' (show j ≤ m by omega)
      rw [hgroup, ih (length_drop_rleGroup hk) (by omega), Option.map_some, List.take_append_drop]

/-- Settles O24: each group decodes to the run or the byte it stands for. -/
theorem rleRoundTrip : Obligations.RleRoundTrip :=
  fun d => rleDecodeFrom_rleEncodeFrom (Nat.le_refl d.length) (Nat.lt_succ_self _) none

end Sys2Proof.Machine

/-! # RLE_ENC and RLE_DEC left alone -/

namespace Sys2Proof.Machine

/-! ## What RLE_ENC emits for a run -/

theorem rleRunLength_of_head_ne {b : Byte} {d : List Byte} (h : d[0]? ≠ some b) (limit : Nat) :
    rleRunLength b limit d = 0 := by
  cases d with
  | nil => simp [rleRunLength]
  | cons x tl =>
    have hx : x ≠ b := by simpa using h
    cases limit <;> simp [rleRunLength, hx]

/-- The longest run of `b` at the head, at most the limit (R197). -/
theorem rleRunLength_eq {b : Byte} {r limit : Nat} {d : List Byte} (hle : r ≤ limit) (hall : ∀ k < r, d[k]? = some b)
    (hstop : r = limit ∨ d[r]? ≠ some b) : rleRunLength b limit d = r := by
  induction r generalizing limit d with
  | zero =>
    rcases hstop with rfl | hne
    · exact Nat.le_zero.1 (rleRunLength_le b 0 d)
    · exact rleRunLength_of_head_ne hne limit
  | succ r ih =>
    obtain ⟨limit, rfl⟩ := Nat.exists_eq_add_one.2 (Nat.lt_of_lt_of_le r.succ_pos hle)
    have hhead := hall 0 r.succ_pos
    cases d with
    | nil => cases hhead
    | cons x tl =>
      obtain rfl : x = b := Option.some.inj hhead
      rw [rleRunLength_cons_self, ih (by omega) (fun k hk => hall (k + 1) (by omega)) (hstop.imp Nat.succ.inj id)]

/-! ## The runs -/

/-- Left alone, the machine ends the command normally with `out` stored (R104). -/
def Finishes (l : Latch) (out : List Byte) (s : State) : Prop :=
  ∃ k, Host.Core.run core k s = .next (finish 0 l.n (s.putAll out))

section
variable {s : State} {l : Latch}

theorem Finishes.of_step (h : step s = .next (finish 0 l.n s)) : Finishes l [] s := ⟨1, run_step h 0⟩

/-- A turn that outputs, then the rest of the run. -/
theorem Finishes.output {w : Work} {bs out : List Byte} (hstep : step s = .next ((s.putAll bs).setRun l w))
    (h : Finishes l out ((s.putAll bs).setRun l w)) : Finishes l (bs ++ out) s := by
  obtain ⟨k, hrun⟩ := h
  refine ⟨k + 1, ?_⟩
  rw [run_step hstep, hrun, finish_putAll_setRun, putAll_append]

theorem Room.after_output {bs out : List Byte} (h : Room s l (bs ++ out).length) (w : Work) :
    Room ((s.putAll bs).setRun l w) l out.length := by
  obtain ⟨hroom, hcap⟩ := h
  rw [List.length_append] at hroom
  have hlen := putAll_dstLen (s := s) bs (by omega)
  exact ⟨by rw [setRun_dstLen, hlen]; omega, hcap⟩

theorem regionBytes_setRun_putAll (s : State) (l : Latch) (w : Work) (bs : List Byte) :
    regionBytes ((s.putAll bs).setRun l w) l = regionBytes s l :=
  regionBytes_congr (by simp) (by simp) l

theorem Room.of_append {bs out : List Byte} (h : Room s l (bs ++ out).length) : Room s l bs.length := by
  obtain ⟨hroom, hcap⟩ := h
  rw [List.length_append] at hroom
  exact ⟨by omega, hcap⟩

/-- RLE_ENC emits the group at `i` and moves past the bytes it stands for (R196). -/
theorem step_rleEnc_group {w : RleEncWork} (hh : s.host = []) (he : s.engine = .run l (.rleEnc w)) (hi : w.i < l.n)
    (hroom : Room s l (rleGroup ((regionBytes s l).drop w.i)).1.length) :
    step s = .next ((s.putAll (rleGroup ((regionBytes s l).drop w.i)).1).setRun l
      (.rleEnc { i := w.i + (rleGroup ((regionBytes s l).drop w.i)).2 })) := by
  rw [step_engine he hh, engineTurn, runTurn_own, rleEncTurn, if_pos hi]
  exact afterEmit_room hroom.2 _ _ hroom.1 _

theorem step_rleEnc_end {w : RleEncWork} (hh : s.host = []) (he : s.engine = .run l (.rleEnc w)) (hi : l.n ≤ w.i) :
    step s = .next (finish 0 l.n s) := by
  rw [step_engine he hh, engineTurn, runTurn_own, rleEncTurn, if_neg (Nat.not_lt.2 hi)]

/-- RLE_ENC from `i` on: the groups of the bytes left. -/
theorem rleEnc_finishes {k : Nat} {d : List Byte} {w : RleEncWork} (hh : s.host = [])
    (he : s.engine = .run l (.rleEnc w)) (hin : (regionBytes s l).drop w.i = d) (hk : d.length ≤ k)
    (hroom : Room s l (rleEncodeFrom k d).length) : Finishes l (rleEncodeFrom k d) s := by
  induction k generalizing s d w with
  | zero =>
    obtain rfl := List.length_eq_zero_iff.1 (Nat.le_zero.1 hk)
    exact .of_step (step_rleEnc_end hh he (by simpa using hin))
  | succ k ih =>
    cases d with
    | nil => exact .of_step (step_rleEnc_end hh he (by simpa using hin))
    | cons b tl =>
      obtain ⟨hi, -, -⟩ := inByte_of_drop hin
      rw [rleEncodeFrom_cons] at hroom ⊢
      have hstep := step_rleEnc_group hh he (Nat.lt_of_add_lt_add_left hi) (hin ▸ hroom.of_append)
      rw [hin] at hstep
      refine .output hstep (ih (host_of_step hstep hh) rfl ?_ (length_drop_rleGroup hk) (hroom.after_output _))
      rw [regionBytes_setRun_putAll, ← List.drop_drop, hin]

/-- The bytes that stand next in the region. -/
theorem inBytes_of_drop {bs rest : List Byte} {a : Nat} (h : (regionBytes s l).drop a = bs ++ rest)
    (hne : 1 ≤ bs.length) :
    l.off + a + bs.length ≤ regionEnd l ∧ inBytes s (l.off + a) bs.length = bs ∧
      (regionBytes s l).drop (a + bs.length) = rest := by
  have hn : l.n = a + (bs.length + rest.length) := by
    have hlen := congrArg List.length h
    rw [List.length_drop, regionBytes_length, List.length_append] at hlen
    omega
  have hread : inBytes s (l.off + a) bs.length ++ inBytes s (l.off + a + bs.length) rest.length = bs ++ rest := by
    rw [← inBytes_add, ← h, regionBytes, hn, inBytes_add s l.off a, List.drop_left' (inBytes_length _ _ _)]
  refine ⟨by rw [regionEnd]; omega, List.append_inj_left hread (inBytes_length _ _ _), ?_⟩
  rw [← List.drop_drop, h, List.drop_left]

/-- RLE_DEC outputs what the token at `ip` says (R191 to R195). -/
theorem step_rleDec_token {w : RleDecWork} {a : Nat} (hh : s.host = []) (he : s.engine = .run l (.rleDec w))
    (hip : w.ip = l.off + a) {i : Instr} {us rest cs : List Byte} {b : Byte} (hwf : i.wellFormed = true)
    (henc : encode i = .rle us) (hin : (regionBytes s l).drop a = us ++ rest)
    (hout : rleTokenOutput w.last i = some (cs, b)) (hroom : Room s l cs.length) :
    step s = .next ((s.putAll cs).setRun l (.rleDec { ip := l.off + (a + us.length), last := some b })) := by
  obtain ⟨hend, hus, -⟩ := inBytes_of_drop hin (rleToken_length henc).1
  have hexec : exec i (s.setRun l (.rleDec { w with ip := w.ip + us.length })) =
      .next ((withOutput s cs).setRun l (.rleDec { ip := w.ip + us.length, last := some b })) :=
    exec_rleToken (w := { w with ip := w.ip + us.length }) rfl hout hroom
  rw [step_rleToken hh he hwf henc (by rwa [hip]) (by rwa [hip]), hexec,
    withOutput_eq_putAll (Nat.lt_of_le_of_lt hroom.1 hroom.2), hip, Nat.add_assoc]

/-- RLE_DEC from `ip` on, where the bytes left decode. -/
theorem rleDec_finishes {k a : Nat} {bs out : List Byte} {w : RleDecWork} (hh : s.host = [])
    (he : s.engine = .run l (.rleDec w)) (hip : w.ip = l.off + a) (hin : (regionBytes s l).drop a = bs)
    (hdec : rleDecodeFrom k w.last bs = some out) (hroom : Room s l out.length) : Finishes l out s := by
  induction k generalizing s a bs out w with
  | zero => cases hdec
  | succ k ih =>
    rcases rleDecodeFrom_cases hdec with ⟨rfl, rfl⟩ | ⟨i, rest, cs, b, out', hi, hout, hrest, rfl⟩
    · have hend : l.n ≤ a := by simpa using hin
      exact .of_step (step_rleEnd hh he (by rw [hip]; exact Nat.add_le_add_left hend _))
    · obtain ⟨hwf, us, henc, rfl⟩ := encode_of_decodeRle hi
      obtain ⟨-, -, hdrop⟩ := inBytes_of_drop hin (rleToken_length henc).1
      have hstep := step_rleDec_token hh he hip hwf henc hin hout hroom.of_append
      exact .output hstep (ih (host_of_step hstep hh) rfl rfl (by rw [regionBytes_setRun_putAll, hdrop]) hrest
        (hroom.after_output _))

/-- The end, written out field by field. -/
theorem Finishes.withOutput {out : List Byte} (h : Finishes l out s) (hroom : Room s l out.length) :
    ∃ k, Host.Core.run core k s =
      .next { withOutput s out with srcUsed := BitVec.ofNat 32 l.n, status := 0b00010, engine := .idle } := by
  obtain ⟨k, hrun⟩ := h
  exact ⟨k, by rw [hrun, withOutput_eq_putAll (Nat.lt_of_le_of_lt hroom.1 hroom.2)]; rfl⟩

end

/-! ### O25 -/

/-- Settles O25: the run RLE_ENC finds is the longest; then each command, a group or a token a step. -/
theorem rleWholeRuns : Obligations.RleWholeRuns := by
  refine ⟨fun b tl r _ hle hall hstop => ?group,
    fun s l hh _ => ⟨fun he hroom => ?enc, fun out he hdec hroom => ?dec⟩⟩
  case group =>
    rw [rleGroup_cons, rleRunLength_eq hle hall hstop]
    split
    · rfl
    · rw [List.append_nil]
      rfl
  case enc =>
    have hend := rleEnc_finishes hh he List.drop_zero (regionBytes_length s l).le hroom
    exact hend.withOutput hroom
  case dec =>
    have hend := rleDec_finishes hh he (Nat.add_zero l.off).symm List.drop_zero hdec hroom
    exact hend.withOutput hroom

end Sys2Proof.Machine

/-! PROOFS. The family of `44_wavelet.md`: how WAVELET_INV starts, what a horizontal and a vertical pass put into each
cell, and its run to the end. -/

/-! # Wavelet passes, cell by cell -/

namespace Sys2Proof.Machine

/-! ## Cells in row-major order -/

theorem rowMajor_div {r c n : Nat} (hc : c < n) : (r * n + c) / n = r := by
  rw [Nat.add_comm, Nat.add_mul_div_right _ _ (Nat.zero_lt_of_lt hc), Nat.div_eq_of_lt hc, Nat.zero_add]

theorem rowMajor_lt {r c n : Nat} (hr : r < n) (hc : c < n) : r * n + c < n * n :=
  calc r * n + c < r * n + n := Nat.add_lt_add_left hc _
    _ = (r + 1) * n := (Nat.succ_mul r n).symm
    _ ≤ n * n := Nat.mul_le_mul_right n hr

/-- Every index of an `n` by `n` array is a row and a column. -/
theorem rowMajor_row_col_lt {i n : Nat} (hi : i < n * n) : i / n < n ∧ i % n < n :=
  ⟨Nat.div_lt_of_lt_mul hi, Nat.mod_lt _ (Nat.pos_of_mul_pos_left (Nat.zero_lt_of_lt hi))⟩

/-- A loaded cell does not depend on what a cell nothing has written holds. -/
theorem wavCell_loaded {coef : List Word} {i : Nat} (hi : i < coef.length) :
    wavCell coef i = (coef.getD i 0).toInt := by
  rw [wavCell, List.getD_eq_getElem _ _ hi, List.getD_eq_getElem _ _ hi]

/-! ## Narrowing (R216) -/

theorem fitsCell_iff (v : Int) : fitsCell v = true ↔ -2 ^ 31 ≤ v ∧ v < 2 ^ 31 := decide_eq_true_iff

theorem fitsCell_eq_false_iff (v : Int) : fitsCell v = false ↔ v < -2 ^ 31 ∨ 2 ^ 31 ≤ v := by
  rw [← Bool.not_eq_true, fitsCell_iff]
  omega

theorem toInt_ofInt_of_fitsCell {v : Int} (h : fitsCell v = true) : (BitVec.ofInt 32 v).toInt = v := by
  obtain ⟨hge, hlt⟩ := (fitsCell_iff v).1 h
  exact BitVec.toInt_ofInt_eq_self (by decide) hge hlt

/-- Halving brings the sum and the difference of two cells back into range (R215, R216). -/
theorem fitsCell_half {x y : Int} (hx : fitsCell x = true) (hy : fitsCell y = true) :
    fitsCell ((x + y) / 2) = true ∧ fitsCell ((x - y) / 2) = true := by
  rw [fitsCell_iff] at hx hy
  rw [fitsCell_iff, fitsCell_iff]
  omega

/-! ## The horizontal pass (R214) -/

section
variable {coef y : List Word} {size t : Nat}

theorem wavHorizontalPass_eq_none_iff :
    wavHorizontalPass coef size t = none ↔
      ∃ r c, r < 2 * t ∧ c < 2 * t ∧ fitsCell (wavHorizontal coef size t r c) = false := by
  simp only [wavHorizontalPass, ite_eq_right_iff, reduceCtorEq, imp_false, List.all_eq_true, List.mem_map,
    List.mem_range, not_forall]
  constructor
  · rintro ⟨_, ⟨i, hi, rfl⟩, hout⟩
    obtain ⟨hr, hc⟩ := rowMajor_row_col_lt hi
    exact ⟨_, _, hr, hc, Bool.eq_false_of_not_eq_true hout⟩
  · rintro ⟨r, c, hr, hc, hout⟩
    refine ⟨_, ⟨r * (2 * t) + c, rowMajor_lt hr hc, rfl⟩, ?_⟩
    rw [rowMajor_div hc, Nat.mul_add_mod_of_lt hc, hout]
    decide

theorem wavHorizontalPass_fits (h : wavHorizontalPass coef size t = some y) {r c : Nat} (hr : r < 2 * t)
    (hc : c < 2 * t) : fitsCell (wavHorizontal coef size t r c) = true := by
  by_contra hout
  have hnone := wavHorizontalPass_eq_none_iff.2 ⟨r, c, hr, hc, Bool.eq_false_of_not_eq_true hout⟩
  cases hnone.symm.trans h

/-- The pass stores every sum and difference exactly. -/
theorem wavCell_horizontal (h : wavHorizontalPass coef size t = some y) {r c : Nat} (hr : r < 2 * t)
    (hc : c < 2 * t) : wavCell y (r * (2 * t) + c) = wavHorizontal coef size t r c := by
  have hfits := wavHorizontalPass_fits h hr hc
  have hi := rowMajor_lt hr hc
  have hlen := wavHorizontalPass_length h
  rw [wavHorizontalPass, Option.ite_none_right_eq_some] at h
  obtain ⟨-, hy⟩ := h
  cases hy
  rw [wavCell, List.getD_eq_getElem _ _ (hi.trans_eq hlen.symm), List.getElem_map, List.getElem_map, List.getElem_range,
    rowMajor_div hc, Nat.mul_add_mod_of_lt hc, toInt_ofInt_of_fitsCell hfits]

/-! ## The vertical pass (R215) -/

theorem wavVerticalPass_getD (hlen : coef.length = size * size) {r c : Nat} (hr : r < size) (hc : c < size) :
    (wavVerticalPass coef y size t).getD (r * size + c) 0 =
      if r < 2 * t ∧ c < 2 * t then BitVec.ofInt 32 (wavVertical y t r c) else coef.getD (r * size + c) 0 := by
  have hi : r * size + c < coef.length := hlen ▸ rowMajor_lt hr hc
  rw [List.getD_eq_getElem _ _ (by rwa [wavVerticalPass, List.length_mapIdx]), List.getD_eq_getElem _ _ hi]
  simp only [wavVerticalPass, List.getElem_mapIdx, rowMajor_div hc, Nat.mul_add_mod_of_lt hc]

/-- After a horizontal pass the vertical one halves the sum or the difference of two of its results. -/
theorem wavVertical_horizontal (h : wavHorizontalPass coef size t = some y) {r c : Nat} (hr : r < 2 * t)
    (hc : c < 2 * t) :
    wavVertical y t r c =
      if r % 2 = 0 then (wavHorizontal coef size t (r / 2) c + wavHorizontal coef size t (t + r / 2) c) / 2
      else (wavHorizontal coef size t (r / 2) c - wavHorizontal coef size t (t + r / 2) c) / 2 := by
  rw [wavVertical, wavCell_horizontal h (by omega) hc, wavCell_horizontal h (by omega) hc]

theorem wavVertical_fits (h : wavHorizontalPass coef size t = some y) {r c : Nat} (hr : r < 2 * t)
    (hc : c < 2 * t) : fitsCell (wavVertical y t r c) = true := by
  obtain ⟨hsum, hdiff⟩ := fitsCell_half (wavHorizontalPass_fits h (r := r / 2) (by omega) hc)
    (wavHorizontalPass_fits h (r := t + r / 2) (by omega) hc)
  rw [wavVertical_horizontal h hr hc]
  split
  · exact hsum
  · exact hdiff

/-- On a loaded plane the horizontal results are sums and differences of its cells. -/
theorem wavHorizontal_loaded (hlen : coef.length = size * size) (hsize : 2 * t ≤ size) {r c : Nat} (hr : r < 2 * t)
    (hc : c < 2 * t) :
    wavHorizontal coef size t r c =
      if c % 2 = 0 then (coef.getD (r * size + c / 2) 0).toInt + (coef.getD (r * size + (t + c / 2)) 0).toInt
      else (coef.getD (r * size + c / 2) 0).toInt - (coef.getD (r * size + (t + c / 2)) 0).toInt := by
  have hcell {c' : Nat} (hc' : c' < 2 * t) : r * size + c' < coef.length :=
    hlen ▸ rowMajor_lt (hr.trans_le hsize) (hc'.trans_le hsize)
  rw [wavHorizontal, wavCell_loaded (hcell (by omega)), wavCell_loaded (hcell (by omega))]

end

/-! ### O39 -/

/-- Settles O39: the horizontal pass is exact where it does not fail, and the halved results fit a cell. -/
theorem waveletPassIsExact : Obligations.WaveletPassIsExact := by
  intro coef size t hlen _ hsize cell h
  have hh {r c : Nat} (hr : r < 2 * t) (hc : c < 2 * t) : wavHorizontal coef size t r c = h r c :=
    wavHorizontal_loaded hlen hsize hr hc
  refine ⟨?fails, fun y hy r c hr hc => ?cells⟩
  case fails =>
    rw [wavHorizontalPass_eq_none_iff]
    refine exists_congr fun r => exists_congr fun c => and_congr_right fun hr => and_congr_right fun hc => ?_
    rw [hh hr hc, fitsCell_eq_false_iff]
  case cells =>
    rw [wavVerticalPass_getD hlen hr hc]
    split
    case isTrue hblock =>
      obtain ⟨hr, hc⟩ := hblock
      rw [toInt_ofInt_of_fitsCell (wavVertical_fits hy hr hc), wavVertical_horizontal hy hr hc,
        hh (by omega) hc, hh (by omega) hc]
      simp only [Int.fdiv_eq_ediv_of_nonneg _ (show (0 : Int) ≤ 2 by decide)]
    case isFalse => rfl

end Sys2Proof.Machine

/-! # WAVELET_INV from its start to its end -/

namespace Sys2Proof.Machine

/-! ### O19 -/

/-- Sizes that fail a test of R211 are refused. -/
theorem wavSizesOk_eq_false {t0 n : Nat} (h : t0 < 1 ∨ n < t0 ∨ 0x10000 < n * n ∨ ∀ k, n ≠ t0 * 2 ^ k) :
    wavSizesOk t0 n = false := by
  refine Bool.eq_false_of_not_eq_true fun hok => ?_
  simp only [wavSizesOk, Bool.and_eq_true, decide_eq_true_eq, List.any_eq_true, beq_iff_eq] at hok
  obtain ⟨⟨hpos, hle, hplane⟩, k, -, hk⟩ := hok
  rcases h with h | h | h | h
  · omega
  · omega
  · exact Nat.not_lt.2 hplane h
  · exact h k hk.symm

/-- Settles O19: past the common checks the tests of R211 decide in their order, then the region check passes. -/
theorem waveletInvStarts : Obligations.WaveletInvStarts := by
  rintro s _ _ rfl rfl hs
  have hstart := startFamily_checked hs.idle hs.operandsFit (commandWord 0x07)
  rw [exec, execWaveletInv, hstart]
  refine ⟨fun hbad => if_pos (wavSizesOk_eq_false hbad), fun hpos hplane hsize => ?_⟩
  have hok : ¬ wavSizesOk (latchOf s).a0 (latchOf s).a1 = false :=
    ne_false_of_eq_true (wavSizesOk_of_doublings hpos hsize hplane)
  rw [if_neg hok]
  have hwritten : regionWritten (s.begin (commandWord 0x07)) (latchOf s) = true := (regionWritten_iff _ _).2 hs.written
  exact ⟨fun hlen => if_pos hlen, fun hlen hcap => (if_neg (not_not.2 hlen)).trans (if_pos hcap),
    fun hlen hcap => (if_neg (not_not.2 hlen)).trans
      ((if_neg (Nat.not_lt.2 hcap)).trans (requireInput_ok hwritten _))⟩

/-! ## The run -/

/-- How WAVELET_INV on a plane `size` wide leaves a machine `s` left alone, `r` being what the passes make of the
plane: stored from OUT address 0 (R217), or ArithmeticOverflow (R216). -/
def wavEnd (size : Nat) (r : Option (List Word)) (s : State) : State :=
  match r with
  | none => raise .arithmeticOverflow 0 s
  | some c =>
      finish 0 (4 * (size * size))
        { s with
          outMem := Mem.writeAll s.outMem 0 (c.flatMap leBytes)
          dstLen := BitVec.ofNat 32 (4 * (size * size)) }

/-- The end depends on no working state before it. -/
theorem wavEnd_setRun (size : Nat) (r : Option (List Word)) (s : State) (l : Latch) (w : Work) :
    wavEnd size r (s.setRun l w) = wavEnd size r s := by
  cases r <;> rfl

section
variable {s : State} {l : Latch} {size t : Nat} {coef y : List Word}

theorem step_wavelet_store (hh : s.host = [])
    (he : s.engine = .run l (.wavelet { size := size, t := t, coef := coef, y := none })) (hend : size ≤ t) :
    step s = .next (wavEnd size (some coef) s) := by
  rw [step_engine he hh, engineTurn, runTurn_own, waveletTurn, if_neg (Nat.not_lt.2 hend)]
  rfl

theorem step_wavelet_overflow (hh : s.host = [])
    (he : s.engine = .run l (.wavelet { size := size, t := t, coef := coef, y := none })) (hlt : t < size)
    (hpass : wavHorizontalPass coef size t = none) : step s = .next (wavEnd size none s) := by
  rw [step_engine he hh, engineTurn, runTurn_own, waveletTurn, if_pos hlt, hpass]
  rfl

theorem step_wavelet_horizontal (hh : s.host = [])
    (he : s.engine = .run l (.wavelet { size := size, t := t, coef := coef, y := none })) (hlt : t < size)
    (hpass : wavHorizontalPass coef size t = some y) :
    step s = .next (s.setRun l (.wavelet { size := size, t := t, coef := coef, y := some y })) := by
  rw [step_engine he hh, engineTurn, runTurn_own, waveletTurn, if_pos hlt, hpass]

theorem step_wavelet_vertical (hh : s.host = [])
    (he : s.engine = .run l (.wavelet { size := size, t := t, coef := coef, y := some y })) :
    step s = .next (s.setRun l (.wavelet
      { size := size, t := 2 * t, coef := wavVerticalPass coef y size t, y := none })) := by
  rw [step_engine he hh, engineTurn, runTurn_own, waveletTurn]

/-- Left alone, WAVELET_INV makes its passes, two steps each, and ends as they do (R213). -/
theorem wavelet_run {passes : Nat} (hh : s.host = [])
    (he : s.engine = .run l (.wavelet { size := size, t := t, coef := coef, y := none })) (hpos : 1 ≤ t)
    (hsize : size = t * 2 ^ passes) :
    ∃ k, Host.Core.run core k s = .next (wavEnd size (wavePasses size passes t coef) s) := by
  induction passes generalizing s t coef with
  | zero => exact ⟨1, run_step (step_wavelet_store hh he (by rw [hsize, Nat.pow_zero, Nat.mul_one])) 0⟩
  | succ passes ih =>
    have hlt : t < size := hsize ▸ lt_mul_of_one_lt_right hpos (Nat.one_lt_two_pow (Nat.succ_ne_zero _))
    have hdouble : size = 2 * t * 2 ^ passes := by rw [hsize, Nat.pow_succ]; ring
    rw [wavePasses]
    cases hpass : wavHorizontalPass coef size t with
    | none => exact ⟨1, run_step (step_wavelet_overflow hh he hlt hpass) 0⟩
    | some y =>
      have hstep := step_wavelet_horizontal hh he hlt hpass
      have hstep' := step_wavelet_vertical (host_of_step hstep hh) rfl
      obtain ⟨k, hrun⟩ := ih (host_of_step hstep' (host_of_step hstep hh)) rfl (by omega) hdouble
      refine ⟨k + 2, ?_⟩
      rw [run_step hstep, run_step hstep', hrun, wavEnd_setRun, wavEnd_setRun, Option.bind_some]

end

/-! ### O40 -/

/-- Settles O40: the run ends as the passes do, stored or in ArithmeticOverflow. -/
theorem waveletWholeRun : Obligations.WaveletWholeRun := by
  intro s l size t passes coef hh he hpos hsize
  obtain ⟨k, hrun⟩ := wavelet_run hh he hpos hsize
  exact ⟨fun c hc => ⟨k, by rw [hrun, hc]; rfl⟩, fun hnone => ⟨k, by rw [hrun, hnone]; rfl⟩⟩

end Sys2Proof.Machine

/-! PROOFS. The family of `45_vlc.md`: that TAB2's lookahead reads what a walk of Tab1 reads, that every step keeps the
table invariant, the run of VLC_BUILD, and what a step of VLC_DECODE and each of its tokens do. -/

/-! # TAB2 and the walk of Tab1 -/

namespace Sys2Proof.Machine

section
variable {t : VlcTables} {sit : Mem Word} {bits : List Bool}

/-! ## Walks bit by bit and walks by the lookahead -/

/-- A walk that has not reached a terminal has taken every bit, and goes on from its node with the bits that follow. -/
theorem vlcDescend_append {node : VlcNode} {i k : Nat} (h : vlcDescend t node bits = some (.inner i, k))
    (more : List Bool) :
    k = bits.length ∧
      vlcDescend t node (bits ++ more) = (vlcDescend t (.inner i) more).map fun r => (r.1, r.2 + k) := by
  induction bits generalizing node k with
  | nil =>
    cases node with
    | leaf idx => cases h
    | inner j =>
      cases h
      exact ⟨rfl, by simp⟩
  | cons b bs ih =>
    cases node with
    | leaf idx =>
      rw [vlcDescend] at h
      cases h
    | inner j =>
      rw [vlcDescend] at h
      split at h
      case h_1 => cases h
      case h_2 pr hpair =>
        obtain ⟨⟨node', k'⟩, hwalk, heq⟩ := Option.map_eq_some_iff.1 h
        cases heq
        obtain ⟨rfl, happend⟩ := ih hwalk
        refine ⟨rfl, ?_⟩
        rw [List.cons_append, vlcDescend, hpair]
        simp only [happend, Option.map_map]
        rfl

/-- The eight lookahead bits begin with the chunk's next bits (R242). -/
theorem take_vlcLookahead {d : Nat} (hd : d ≤ 8) (hlen : d ≤ bits.length) :
    (natToBits (vlcLookahead bits) 8).take d = bits.take d := by
  rw [natToBits_vlcLookahead, List.take_append_of_le_length (by rw [List.length_take]; omega), List.take_take,
    Nat.min_eq_left hd]

/-- A code of at most eight bits: the entry is the terminal's (R237). -/
theorem TablesBuilt.entry_of_leaf (h : TablesBuilt t sit) {idx d : Nat}
    (hwalk : vlcDescend t (vlcRoot t) bits = some (.leaf idx, d)) (hd : d ≤ 8) :
    ∃ e, vlcEntry t bits = some e ∧ vlcEntryAt sit (.leaf idx) d = some e := by
  obtain ⟨e, node, k, he, hlook, hat⟩ := h.entry bits
  have htake := take_vlcLookahead hd (vlcDescend_take hwalk []).1
  rw [← List.take_append_drop d (natToBits _ _), htake, (vlcDescend_take hwalk _).2] at hlook
  cases hlook
  exact ⟨e, he, hat⟩

theorem TablesBuilt.entry_of_zerorun (h : TablesBuilt t sit) {d : Nat}
    (hwalk : vlcDescend t (vlcRoot t) bits = some (.leaf 0, d)) (hd : d ≤ 8) :
    vlcEntry t bits = some { kind := .zerorun, val := 0, len := d } := by
  obtain ⟨e, he, hat⟩ := h.entry_of_leaf hwalk hd
  cases hat
  exact he

theorem TablesBuilt.entry_of_terminal (h : TablesBuilt t sit) {idx d : Nat}
    (hwalk : vlcDescend t (vlcRoot t) bits = some (.leaf idx, d)) (hd : d ≤ 8) (hidx : idx ≠ 0) :
    ∃ v, Mem.read sit idx = some v ∧ vlcEntry t bits = some { kind := .terminal, val := v, len := d } := by
  obtain ⟨e, he, hat⟩ := h.entry_of_leaf hwalk hd
  rw [vlcEntryAt, if_neg hidx] at hat
  obtain ⟨v, hv, rfl⟩ := Option.map_eq_some_iff.1 hat
  exact ⟨v, hv, he⟩

/-- A code of more than eight bits: the entry is deferred to the node the first eight reach (R237). -/
theorem TablesBuilt.entry_of_inner (h : TablesBuilt t sit) {i : Nat} (hlen : 8 ≤ bits.length)
    (hwalk : vlcDescend t (vlcRoot t) (bits.take 8) = some (.inner i, 8)) :
    vlcEntry t bits = some { kind := .deferred, val := BitVec.ofNat 32 i, len := 8 } := by
  obtain ⟨e, node, k, he, hlook, hat⟩ := h.entry bits
  rw [natToBits_vlcLookahead, List.length_take_of_le hlen, Nat.sub_self, List.replicate_zero, List.append_nil,
    hwalk] at hlook
  cases hlook
  cases hat
  exact he

/-- A walk that finds no terminal within eight bits is at a pair after eight, and goes on from there. -/
theorem TablesBuilt.descends_past_lookahead (h : TablesBuilt t sit) (hlen : 8 ≤ bits.length)
    (hdeep : ∀ idx d, vlcDescend t (vlcRoot t) bits = some (.leaf idx, d) → 8 < d) :
    ∃ i, i < t.tab1.length ∧ vlcDescend t (vlcRoot t) (bits.take 8) = some (.inner i, 8) ∧
      vlcDescend t (vlcRoot t) bits = (vlcDescend t (.inner i) (bits.drop 8)).map fun r => (r.1, r.2 + 8) := by
  obtain ⟨node, k, hwalk, hin⟩ := h.descends (vlcRoot_nodeIn t) (bits.take 8)
  cases node with
  | leaf idx =>
    obtain ⟨hk, hmore⟩ := vlcDescend_take hwalk ((bits.take 8).drop k ++ bits.drop 8)
    rw [← List.append_assoc, List.take_append_drop, List.take_append_drop] at hmore
    have hgt := hdeep idx k hmore
    rw [List.length_take] at hk
    omega
  | inner i =>
    obtain ⟨hk, hmore⟩ := vlcDescend_append hwalk (bits.drop 8)
    rw [List.length_take_of_le hlen] at hk
    subst hk
    rw [List.take_append_drop] at hmore
    exact ⟨i, hin, hwalk, hmore⟩

/-! ## A token by the lookahead and by the walk (R250) -/

/-- A terminal within eight bits (R243, R244). -/
theorem TablesBuilt.decodeVlc_of_leaf (h : TablesBuilt t sit) {idx d : Nat}
    (hwalk : vlcDescend t (vlcRoot t) bits = some (.leaf idx, d)) (hd : d ≤ 8) :
    decodeVlc t bits = vlcWalkDecode t bits := by
  by_cases hidx : idx = 0
  · subst hidx
    simp only [decodeVlc, h.entry_of_zerorun hwalk hd, vlcWalkDecode, hwalk, hd, Config.vlcZrunBits, true_and, if_true]
    rfl
  · obtain ⟨v, -, he⟩ := h.entry_of_terminal hwalk hd hidx
    have hlen := Nat.not_lt.2 (vlcDescend_take hwalk []).1
    simp only [decodeVlc, he, vlcWalkDecode, hwalk, hd, hidx, hlen, false_and, if_false, if_true]

/-- None within eight bits, with eight there: the deferred entry's walk is the rest of the walk (R245, R246). -/
theorem TablesBuilt.decodeVlc_past_lookahead (h : TablesBuilt t sit) (hlen : 8 ≤ bits.length)
    (hdeep : ∀ idx d, vlcDescend t (vlcRoot t) bits = some (.leaf idx, d) → 8 < d) :
    decodeVlc t bits = vlcWalkDecode t bits := by
  obtain ⟨i, hin, hwalk, hrest⟩ := h.descends_past_lookahead hlen hdeep
  obtain ⟨node, k, hend, -⟩ := h.descends (node := .inner i) hin (bits.drop 8)
  rw [hend, Option.map_some] at hrest
  have hentry := h.entry_of_inner hlen hwalk
  have hshort := Nat.not_lt.2 hlen
  obtain ⟨-, -, hcnt, -, -⟩ := h
  have hnode : (BitVec.ofNat 32 i).toNat = i := Nat.mod_eq_of_lt (by omega)
  cases node with
  | inner j =>
    simp only [decodeVlc, hentry, Config.vlcLook, hshort, if_false, hnode, hend, vlcWalkDecode, hrest]
  | leaf idx =>
    have hgt : ¬ k + 8 ≤ 8 := Nat.not_le.2 (hdeep idx (k + 8) hrest)
    simp only [decodeVlc, hentry, Config.vlcLook, hshort, if_false, hnode, hend, vlcWalkDecode, hrest, hgt, and_false,
      Nat.add_comm 8 k]

/-- The chunk ends inside the lookahead, before a terminal: whatever the zero bits past the end select is not wholly
inside the chunk (R242, R246). -/
theorem TablesBuilt.decodeVlc_of_short (h : TablesBuilt t sit) (hlen : bits.length < 8) {i k : Nat}
    (hwalk : vlcDescend t (vlcRoot t) bits = some (.inner i, k)) : decodeVlc t bits = .error .endOfChunk := by
  obtain ⟨e, node, d, he, hlook, hat⟩ := h.entry bits
  simp only [decodeVlc, he]
  split
  case h_1 hkind =>
    refine if_pos (Nat.lt_of_not_le fun hle => ?_)
    obtain ⟨idx, rfl, rfl⟩ := vlcEntryAt_terminal hat hkind
    have hleaf := (vlcDescend_take hlook (bits.drop e.len)).2
    rw [take_vlcLookahead (hle.trans hlen.le) hle, List.take_append_drop, hwalk] at hleaf
    cases hleaf
  case h_2 => exact if_pos (by simp only [Config.vlcZrunBits]; omega)
  case h_3 => exact if_pos hlen

/-- R250: reading a token by the lookahead is walking Tab1. -/
theorem TablesBuilt.decodeVlc_eq_vlcWalkDecode (h : TablesBuilt t sit) (bits : List Bool) :
    decodeVlc t bits = vlcWalkDecode t bits := by
  obtain ⟨node, k, hwalk, -⟩ := h.descends (vlcRoot_nodeIn t) bits
  by_cases hleaf : ∃ idx d, vlcDescend t (vlcRoot t) bits = some (.leaf idx, d) ∧ d ≤ 8
  · obtain ⟨idx, d, hwalk, hd⟩ := hleaf
    exact h.decodeVlc_of_leaf hwalk hd
  have hdeep : ∀ idx d, vlcDescend t (vlcRoot t) bits = some (.leaf idx, d) → 8 < d :=
    fun idx d hwalk => Nat.lt_of_not_le fun hd => hleaf ⟨idx, d, hwalk, hd⟩
  by_cases hlen : 8 ≤ bits.length
  · exact h.decodeVlc_past_lookahead hlen hdeep
  cases node with
  | leaf idx =>
    have hgt := hdeep idx k hwalk
    have hle := (vlcDescend_take hwalk []).1
    omega
  | inner i =>
    rw [h.decodeVlc_of_short (Nat.lt_of_not_le hlen) hwalk, vlcWalkDecode, hwalk]

end

/-! ### O5 -/

/-- Settles O5: the walk of the lookahead's bits and the walk of the chunk's agree up to eight bits (R237), and a
deferred entry goes on with the rest of it. -/
theorem tab2IsACacheOfTab1 : Obligations.Tab2IsACacheOfTab1 := by
  intro t sit bits h
  refine ⟨fun idx d hwalk hd => ⟨h.entry_of_terminal hwalk hd, ?_⟩, fun i => h.entry_of_inner,
    h.decodeVlc_eq_vlcWalkDecode bits⟩
  rintro rfl
  exact h.entry_of_zerorun hwalk hd

end Sys2Proof.Machine

/-! # The table invariant -/

namespace Sys2Proof.Machine

/-- What the table invariant reads of the tables: TAB1, TAB2, TAB_INFO and SIT. -/
def State.vlcTables (s : State) : List Tab1Pair × List Tab2Entry × Reg × Mem Word :=
  (s.tab1, s.tab2, s.tabInfo, s.sit)

theorem vlcTables_eq_iff (s t : State) : t.vlcTables = s.vlcTables ↔
    t.tab1 = s.tab1 ∧ t.tab2 = s.tab2 ∧ t.tabInfo = s.tabInfo ∧ t.sit = s.sit := by
  simp [State.vlcTables]

/-! ## The invariant in parts -/

/-- The half of the invariant that reads the tables alone (R230): they are valid and built, or TAB_INFO is 0. -/
def TablesOk (s : State) : Prop :=
  (tabValid s = true → TablesBuilt (tablesOf s) s.sit ∧ tabCnt s = s.tab1.length) ∧
    (tabValid s = false → s.tabInfo = 0)

/-- The half that reads the running command: VLC_BUILD runs on dead tables, VLC_DECODE on valid ones (R233, R241). -/
def VlcWorkOk (s : State) : Work → Prop
  | .vlcBuild w => tabValid s = false ∧ s.tab1.length ≤ w.cnt ∧ w.cnt ≤ 8191 ∧ 1 ≤ w.s ∧ w.s ≤ 8192
  | .vlcDecode _ => tabValid s = true
  | _ => True

theorem tabOk_iff (s : State) :
    TabOk s ↔ TablesOk s ∧ ∀ l w, s.engine = .run l w → busy s = true ∧ VlcWorkOk s w := by
  constructor
  · intro h
    refine ⟨⟨h.valid, h.invalid⟩, fun l w he => ⟨h.busy (by rw [running, he]), ?_⟩⟩
    cases w with
    | vlcBuild w => exact h.building l w he
    | vlcDecode w => exact h.decoding l w he
    | _ => trivial
  · rintro ⟨⟨hvalid, hinvalid⟩, hrun⟩
    refine ⟨hvalid, hinvalid, fun hr => ?_, fun l w he => (hrun l _ he).2, fun l w he => (hrun l _ he).2⟩
    cases he : s.engine with
    | idle => simp [running, he] at hr
    | run l w => exact (hrun l w he).1

theorem TabOk.tables {s : State} (h : TabOk s) : TablesOk s := ⟨h.valid, h.invalid⟩

/-- With the engine idle the invariant is about the tables alone. -/
theorem TablesOk.idle {s : State} (h : TablesOk s) (he : s.engine = .idle) : TabOk s :=
  (tabOk_iff s).2 ⟨h, fun l w hrun => by simp [he] at hrun⟩

theorem TablesOk.congr {s t : State} (h : TablesOk s) (heq : t.vlcTables = s.vlcTables) : TablesOk t := by
  obtain ⟨htab1, htab2, hinfo, hsit⟩ := (vlcTables_eq_iff s t).1 heq
  simpa only [TablesOk, tabValid, tablesOf, tabS, tabCnt, htab1, htab2, hinfo, hsit] using h

theorem VlcWorkOk.congr {s t : State} {w : Work} (h : VlcWorkOk s w) (heq : t.vlcTables = s.vlcTables) :
    VlcWorkOk t w := by
  obtain ⟨htab1, -, hinfo, -⟩ := (vlcTables_eq_iff s t).1 heq
  cases w with
  | vlcBuild w | vlcDecode w => simpa only [VlcWorkOk, tabValid, htab1, hinfo] using h
  | _ => trivial

theorem tabValid_of_dead {s : State} (h : s.tabInfo = 0) : tabValid s = false := by
  rw [tabValid, h]
  rfl

/-- `TAB_INFO <- 0` leaves nothing to say of the tables (R106, R231, R233). -/
theorem tablesOk_of_dead {s : State} (h : s.tabInfo = 0) : TablesOk s :=
  ⟨fun hvalid => absurd hvalid (by simp [tabValid_of_dead h]), fun _ => h⟩

theorem TablesOk.raise {s : State} (h : TablesOk s) (f : BlockFault) (pos : Nat) : TabOk (raise f pos s) :=
  TablesOk.idle (h.congr rfl) rfl

theorem TablesOk.finish {s : State} (h : TablesOk s) (flags : Reg) (used : Nat) : TabOk (finish flags used s) :=
  TablesOk.idle (h.congr rfl) rfl

/-- The invariant reads the tables, the engine and STATUS. -/
theorem TabOk.congr {s t : State} (h : TabOk s) (htab : t.vlcTables = s.vlcTables) (he : t.engine = s.engine)
    (hstatus : t.status = s.status) : TabOk t := by
  obtain ⟨htables, hrun⟩ := (tabOk_iff s).1 h
  refine (tabOk_iff t).2 ⟨htables.congr htab, fun l w hw => ?_⟩
  obtain ⟨hbusy, hwork⟩ := hrun l w (he ▸ hw)
  exact ⟨by rwa [Machine.busy, hstatus], hwork.congr htab⟩

/-- While the block is not busy no command runs. -/
theorem TabOk.idle_of_free {s : State} (h : TabOk s) (hfree : Machine.busy s = false) : s.engine = .idle := by
  cases he : s.engine with
  | idle => rfl
  | run l w =>
    obtain ⟨hbusy, -⟩ := ((tabOk_iff s).1 h).2 l w he
    exact absurd hbusy (by simp [hfree])

/-! ## What the engine leaves of the tables -/

theorem OutputMove.vlcTables {cap : Nat} {s u : State} (h : OutputMove cap s u) : u.vlcTables = s.vlcTables :=
  (congrArg State.vlcTables h.frame :)

theorem Ended.vlcTables {l : Latch} {R : Work → Prop} {u t : State} (h : Ended l R u t) :
    t.vlcTables = u.vlcTables :=
  (congrArg State.vlcTables h.sansEnd :)

theorem afterEmit_vlcTables {cap ip : Nat} {bs : List Byte} {s t : State} {k : State → Out}
    (h : afterEmit (emitAll cap ip bs s) k = .next t) (hk : ∀ u, k u = .next t → t.vlcTables = u.vlcTables) :
    t.vlcTables = s.vlcTables := by
  rcases afterEmit_next h with ⟨hfits, hnext⟩ | ⟨cs, hfits, rfl⟩
  · exact (hk _ hnext).trans hfits.outputMove.vlcTables
  · exact hfits.outputMove.vlcTables

theorem Overflows.vlcTables {l : Latch} {s e : State} (h : Overflows l s e) : e.vlcTables = s.vlcTables := by
  obtain ⟨u, pos, hmove, rfl⟩ := h
  exact hmove.vlcTables

theorem token_vlcTables {i : Instr} (hi : isCommand i = false) {s t : State} (h : exec i s = .next t) :
    t.vlcTables = s.vlcTables := by
  obtain ⟨l, w, -, bs, m, hmove⟩ := token_moves hi h
  exact hmove.ended.vlcTables.trans hmove.fits.outputMove.vlcTables

section
variable {l : Latch} {s t : State}

theorem rleDecTurn_vlcTables {w : RleDecWork} (h : runTurn (rleDecTurn l w s) = .next t) :
    t.vlcTables = s.vlcTables := by
  unfold rleDecTurn at h
  split at h
  · cases h
    rfl
  · dsimp only at h
    split at h
    · cases h
      rfl
    · obtain ⟨cs, hcs⟩ := decodeRle_encode ‹_›
      exact (token_vlcTables (by rw [isCommand, hcs]) h :)

theorem rleEncTurn_vlcTables {w : RleEncWork} (h : rleEncTurn l w s = .next t) : t.vlcTables = s.vlcTables := by
  unfold rleEncTurn at h
  split at h
  · exact afterEmit_vlcTables h fun u hu => by cases hu; rfl
  · cases h
    rfl

theorem lzssDecTurn_vlcTables {w : LzssDecWork} (h : runTurn (lzssDecTurn l w s) = .next t) :
    t.vlcTables = s.vlcTables := by
  rcases lzssDecTurn_cases l w s with hcnt | ⟨ip, hcnt, hf⟩ | ⟨i, w', hcnt, hf⟩
  · rw [lzssDecTurn_soft hcnt] at h
    exact afterEmit_vlcTables h fun u hu => by cases hu; rfl
  · rw [lzssDecTurn_exhausted hcnt hf] at h
    cases h
    rfl
  · rw [lzssDecTurn_token hcnt hf] at h
    exact (token_vlcTables (lzssFetch_token hf).1.isCommand h :)

theorem lzssEncTurn_vlcTables {w : LzssEncWork} (h : lzssEncTurn l w s = .next t) : t.vlcTables = s.vlcTables := by
  unfold lzssEncTurn at h
  split at h
  · dsimp only at h
    split at h
    · cases h
      exact (lzssPutAll_error ‹_›).vlcTables
    case h_2 hput =>
      cases h
      exact (lzssPutAll_ok hput).out.vlcTables
  · split at h
    · cases h
      exact (lzssPutAll_error ‹_›).vlcTables
    case h_2 hput =>
      have hend := afterEmit_vlcTables h fun u hu => by cases hu; rfl
      exact hend.trans (lzssPutAll_ok hput).out.vlcTables

theorem lzwDecTurn_vlcTables {w : LzwDecWork} (h : runTurn (lzwDecTurn l w s) = .next t) :
    t.vlcTables = s.vlcTables := by
  unfold lzwDecTurn at h
  dsimp only at h
  split at h
  · cases h
    rfl
  · split at h
    · cases h
      rfl
    · obtain ⟨c, hc⟩ := decodeLzw_encode ‹_›
      exact (token_vlcTables (by rw [isCommand, hc]) h :)

theorem lzwEncTurn_vlcTables {w : LzwEncWork} (h : lzwEncTurn l w s = .next t) : t.vlcTables = s.vlcTables := by
  unfold lzwEncTurn at h
  split at h <;> exact afterEmit_vlcTables h fun u hu => by cases hu; rfl

theorem waveletTurn_vlcTables {w : WaveletWork} (h : waveletTurn l w s = .next t) : t.vlcTables = s.vlcTables := by
  unfold waveletTurn at h
  split at h
  · cases h
    rfl
  · split at h
    · split at h <;> cases h <;> rfl
    · cases h
      rfl

theorem vlcDecodeTurn_vlcTables {w : VlcDecodeWork} (h : runTurn (vlcDecodeTurn l w s) = .next t) :
    t.vlcTables = s.vlcTables := by
  unfold vlcDecodeTurn at h
  split at h
  · cases h
    rfl
  · split at h
    · cases h
      rfl
    · split at h
      · obtain ⟨path, hpath⟩ := decodeVlc_encode ‹_›
        exact (token_vlcTables (by rw [isCommand, hpath]) h :)
      · cases h
      · cases h
        rfl

/-- Of the engine's turns only VLC_BUILD's writes the tables. -/
theorem engineTurn_vlcTables {w : Work} (hw : w.command ≠ .vlcBuild) (h : runTurn (engineTurn l w s) = .next t) :
    t.vlcTables = s.vlcTables := by
  cases w with
  | lzssDec w => exact lzssDecTurn_vlcTables h
  | lzssEnc w => exact lzssEncTurn_vlcTables h
  | lzwDec w => exact lzwDecTurn_vlcTables h
  | lzwEnc w => exact lzwEncTurn_vlcTables h
  | rleDec w => exact rleDecTurn_vlcTables h
  | rleEnc w => exact rleEncTurn_vlcTables h
  | wavelet w => exact waveletTurn_vlcTables h
  | vlcBuild w => exact absurd rfl hw
  | vlcDecode w => exact vlcDecodeTurn_vlcTables h

end

/-! ## The end of VLC_BUILD -/

/-- The fields of TAB_INFO come back as they were put in (R15). -/
theorem tabInfoWord_fields {cnt sc : Nat} (hcnt : cnt ≤ 8191) (hsc : sc ≤ 8192) :
    (tabInfoWord cnt sc).getLsbD 0 = true ∧ (tabInfoWord cnt sc).toNat / 2 % 0x2000 = cnt ∧
      (tabInfoWord cnt sc).toNat / 0x4000 % 0x4000 = sc := by
  have hword : (tabInfoWord cnt sc).toNat = 1 + cnt * 2 + sc * 0x4000 := Nat.mod_eq_of_lt (by omega)
  refine ⟨?_, by omega, by omega⟩
  rw [BitVec.getLsbD, hword, Nat.testBit_zero, decide_eq_true_eq]
  omega

theorem vlcChildrenOk_iff (tab1 : List Tab1Pair) (sc : Nat) :
    vlcChildrenOk tab1 sc = true ↔ ∀ pr ∈ tab1, pr.left < sc + tab1.length ∧ pr.right < sc + tab1.length := by
  simp [vlcChildrenOk]

/-- Everything the end of VLC_BUILD is where it is not refused: VlcBadTable, or the tables are built (R233). -/
theorem vlcBuildEnd_next {w : VlcBuildWork} {s t : State} (h : vlcBuildEnd w s = .next t) :
    (vlcChildrenOk s.tab1 w.s = false ∧ t = raise .vlcBadTable 0 s) ∨
      ∃ tab2, vlcChildrenOk s.tab1 w.s = true ∧ vlcDeriveTab2 s.tab1 w.s s.sit = some tab2 ∧
        t = finish 0 (bytesOfBits (vlcDictBits w.cnt)) { s with tab2 := tab2, tabInfo := tabInfoWord w.cnt w.s } := by
  unfold vlcBuildEnd at h
  split at h
  case isTrue hbad =>
    cases h
    exact .inl ⟨hbad, rfl⟩
  case isFalse hok =>
    split at h
    · cases h
    · cases h
      exact .inr ⟨_, by simpa using hok, ‹_›, rfl⟩

/-- A completed VLC_BUILD leaves tables that are built (R233, R236, R237). -/
theorem tablesOk_built {s : State} {cnt sc : Nat} (hlen : s.tab1.length = cnt) (hcnt : cnt ≤ 8191) (hpos : 1 ≤ sc)
    (hsc : sc ≤ 8192) {tab2 : List Tab2Entry} (hchildren : vlcChildrenOk s.tab1 sc = true)
    (hderive : vlcDeriveTab2 s.tab1 sc s.sit = some tab2) :
    TablesOk { s with tab2 := tab2, tabInfo := tabInfoWord cnt sc } := by
  obtain ⟨hvalid, hcount, hs⟩ := tabInfoWord_fields hcnt hsc
  have htabS : tabS { s with tab2 := tab2, tabInfo := tabInfoWord cnt sc } = sc := hs
  refine ⟨fun _ => ⟨?_, hcount.trans hlen.symm⟩, fun hinvalid => ?_⟩
  · rw [tablesOf, htabS]
    exact ⟨hpos, hsc, hlen.trans_le hcnt, (vlcChildrenOk_iff _ _).1 hchildren, hderive⟩
  · exact absurd hvalid (by simpa [tabValid] using hinvalid)

theorem vlcBuildTurn_keepsTabOk {l : Latch} {w : VlcBuildWork} {s t : State} (he : s.engine = .run l (.vlcBuild w))
    (hs : TabOk s) (h : vlcBuildTurn l w s = .next t) : TabOk t := by
  obtain ⟨htables, hrun⟩ := (tabOk_iff s).1 hs
  obtain ⟨hbusy, hdead, hle, hcnt, hpos, hsc⟩ := hrun l _ he
  unfold vlcBuildTurn at h
  split at h
  case isTrue hlt =>
    cases h
    refine (tabOk_iff _).2 ⟨tablesOk_of_dead (htables.2 hdead), fun l' w' he' => ?_⟩
    cases he'
    exact ⟨hbusy, hdead, by simpa using hlt, hcnt, hpos, hsc⟩
  case isFalse hge =>
    rcases vlcBuildEnd_next h with ⟨-, rfl⟩ | ⟨tab2, hchildren, hderive, rfl⟩
    · exact htables.raise _ _
    · have hlen : s.tab1.length = w.cnt := Nat.le_antisymm hle (Nat.le_of_not_lt hge)
      exact (tablesOk_built hlen hcnt hpos hsc hchildren hderive).finish _ _

/-- Every turn of the engine keeps the invariant. -/
theorem engineTurn_keepsTabOk {l : Latch} {w : Work} {s t : State} (he : s.engine = .run l w) (hs : TabOk s)
    (h : runTurn (engineTurn l w s) = .next t) : TabOk t := by
  by_cases hw : w.command = .vlcBuild
  · cases w with
    | vlcBuild w => exact vlcBuildTurn_keepsTabOk he hs h
    | _ => cases hw
  obtain ⟨u, hmove⟩ := engineTurn_moves he h
  have htab := engineTurn_vlcTables hw h
  obtain ⟨htables, hrun⟩ := (tabOk_iff s).1 hs
  obtain ⟨hbusy, hwork⟩ := hrun l w he
  refine (tabOk_iff t).2 ⟨htables.congr htab, fun l' w' he' => ?_⟩
  obtain ⟨rfl, ⟨hcommand, -⟩, rfl⟩ := hmove.ended.of_engine he'
  have hstatus : u.status = s.status := (congrArg State.status hmove.frame :)
  refine ⟨by rwa [busy, setRun_status, hstatus], ?_⟩
  cases w' with
  | vlcBuild w' => exact absurd hcommand.symm hw
  | vlcDecode w' =>
    cases w with
    | vlcDecode w => exact hwork.congr htab
    | _ => cases hcommand
  | _ => trivial

/-! ## Command starts -/

/-- VLC_BUILD starts to run with S and the pair count in range, TAB1 empty and the old tables dead (R233 to R235). -/
theorem execVlcBuild_running {s t : State} (hfree : busy s = false) (h : execVlcBuild s = .next t) {l : Latch}
    {w : Work} (he : t.engine = .run l w) : VlcWorkOk t w := by
  rw [execVlcBuild, startCommand_free hfree] at h
  rcases checkOperands_next h with rfl | ⟨-, h⟩
  · cases he
  split at h
  · cases h
    cases he
  case isFalse hsc =>
    split at h
    · cases h
      cases he
    obtain ⟨-, h⟩ := requireInput_next h
    dsimp only at h
    split at h
    · cases h
      cases he
    · cases h
      cases he
      have hcnt := bitsToNat_lt (inBitList (s.begin (commandWord 0x08)).clearTab (latchOf s) 0 13)
      rw [inBitList_length] at hcnt
      obtain ⟨hpos, hle⟩ := not_or.1 hsc
      exact ⟨tabValid_of_dead rfl, Nat.zero_le _, Nat.le_of_lt_succ hcnt, Nat.le_of_not_lt hpos,
        Nat.le_of_not_lt hle⟩

/-- VLC_DECODE starts to run on valid tables only (R241). -/
theorem execVlcDecode_running {s t : State} (hfree : busy s = false) (h : execVlcDecode s = .next t) {l : Latch}
    {w : Work} (he : t.engine = .run l w) : VlcWorkOk t w := by
  rw [execVlcDecode, startFamily, startCommand_free hfree] at h
  rcases checkOperands_next h with rfl | ⟨-, h⟩
  · cases he
  split at h
  · cases h
    cases he
  case isFalse hvalid =>
    obtain ⟨-, h⟩ := requireInput_next h
    cases h
    cases he
    exact Bool.eq_true_of_not_eq_false hvalid

/-- What a command starts to run with meets the invariant. -/
theorem command_running {i : Instr} (hi : isCommand i = true) {s t : State} (hfree : busy s = false)
    (h : exec i s = .next t) {l : Latch} {w : Work} (he : t.engine = .run l w) (hw : w.command = i) :
    VlcWorkOk t w := by
  cases w with
  | vlcBuild w =>
    subst hw
    exact execVlcBuild_running hfree h he
  | vlcDecode w =>
    subst hw
    exact execVlcDecode_running hfree h he
  | _ => trivial

/-- A command that does not touch TAB_INFO leaves the tables alone (R305). -/
theorem CommandMove.vlcTables {i : Instr} {s u t : State} (h : CommandMove i s u t)
    (hi : i ∉ [Instr.vlcBuild, .clear]) : t.vlcTables = s.vlcTables := by
  have hinfo := h.tabInfo
  rw [if_neg hi] at hinfo
  have htab1 := h.tab1 fun hbuild => hi (by simp [hbuild])
  refine h.ended.vlcTables.trans ((vlcTables_eq_iff s u).2 ⟨htab1, ?_, hinfo, ?_⟩)
  · exact (congrArg State.tab2 h.frame :)
  · exact (congrArg State.sit h.frame :)

theorem CommandMove.tablesOk {i : Instr} {s u t : State} (h : CommandMove i s u t) (hs : TablesOk s) : TablesOk t := by
  by_cases hi : i ∈ [Instr.vlcBuild, .clear]
  · have hinfo := h.tabInfo
    rw [if_pos hi] at hinfo
    exact (tablesOk_of_dead hinfo).congr h.ended.vlcTables
  · exact hs.congr (h.vlcTables hi)

/-- A write of a command to CMD keeps the invariant. -/
theorem command_keepsTabOk {i : Instr} (hi : isCommand i = true) {s t : State} (hs : TabOk s)
    (h : exec i s = .next t) : TabOk t := by
  rcases command_next hi h with ⟨-, rfl⟩ | ⟨hfree, u, hmove⟩
  · exact hs
  refine (tabOk_iff t).2 ⟨hmove.tablesOk hs.tables, fun l w he => ?_⟩
  obtain ⟨rfl, hstart, rfl⟩ := hmove.ended.of_engine he
  have hstatus : u.status = statusBusy := (congrArg State.status hmove.frame :)
  refine ⟨?_, command_running hi hfree h he hstart.command⟩
  rw [busy, setRun_status, hstatus]
  rfl

/-! ## Host accesses -/

/-- A write of SIT by an owning host kills the tables (R231). -/
theorem hostWriteSit_keepsTabOk {s : State} (hs : TabOk s) (hown : hostOwns s = true) (a : Nat) (v : Word) :
    TabOk (hostWriteSit a v s) := by
  have hfree := ((hostOwns_iff s).1 hown).1
  exact (tablesOk_of_dead rfl).idle (hs.idle_of_free hfree)

theorem hostWriteReg_keepsTabOk {r : Nat} {v : Reg} {s t : State} (hs : TabOk s)
    (h : runTurn (hostWriteReg r v s) = .next t) : TabOk t := by
  unfold hostWriteReg at h
  split at h
  · split at h
    case h_1 i hi => exact command_keepsTabOk (decodeCommand_isCommand hi) hs h
    case h_2 =>
      rw [runTurn_own, illegalCommand] at h
      rcases startCommand_next h with ⟨-, rfl⟩ | ⟨-, h⟩
      · exact hs
      · cases h
        exact TablesOk.raise (s := s.begin v) (hs.tables.congr rfl) _ _
  · cases h
    unfold writeOperand
    split <;> exact hs.congr rfl rfl rfl

theorem hostTurn_keepsTabOk {op : HostOp} {s t : State} (hs : TabOk s) (h : runTurn (hostTurn op s) = .next t) :
    TabOk t := by
  cases op with
  | writeReg r v =>
    unfold hostTurn at h
    dsimp only at h
    split at h
    · exact hostWriteReg_keepsTabOk hs h
    · cases h
      exact hs
  | readReg r =>
    cases h
    unfold hostReadReg
    split
    · exact hs.congr rfl rfl rfl
    · split <;> exact hs.congr rfl rfl rfl
  | writeIn a v =>
    rw [inAperture_next h]
    split <;> exact hs.congr rfl rfl rfl
  | readIn a | readOut a | readSit a =>
    rw [inAperture_next h]
    exact hs.congr rfl rfl rfl
  | writeSit a v =>
    rw [inAperture_next h]
    split
    · exact hostWriteSit_keepsTabOk hs ‹_› a v
    · exact hs
  | reset =>
    cases h
    exact (tablesOk_of_dead rfl).idle rfl

/-! ### O55 -/

/-- Settles O55: only a VLC_BUILD writes the tables, from dead ones to built ones; a write of SIT, while no command
runs, kills them. -/
theorem stepKeepsTables : Obligations.StepKeepsTables := by
  intro s t hs h
  have hq : ∀ q, TabOk (s.setHost q) := fun q => hs.congr rfl rfl rfl
  rcases step_cases s with ⟨-, -, hstep⟩ | ⟨l, w, q, he, hstep⟩ | ⟨e, rest, -, hstep⟩
  · rw [hstep] at h
    exact Host.Outcome.next.inj h ▸ hs
  · exact engineTurn_keepsTabOk (s := s.setHost q) he (hq q) (hstep ▸ h)
  · exact hostTurn_keepsTabOk (hq rest) (hstep ▸ h)

end Sys2Proof.Machine

/-! # VLC_BUILD and VLC_DECODE, step by step -/

namespace Sys2Proof.Machine

/-! ### O20 -/

/-- Settles O20: past the common checks VLC_BUILD's own tests decide in their order, VLC_DECODE's on TAB_VALID. -/
theorem vlcCommandsStart : Obligations.VlcCommandsStart := by
  intro s sc cnt hsc hcnt hs
  rw [hsc, hcnt]
  have hbuild := checkOperands_ok (t := (s.begin (commandWord 0x08)).clearTab) hs.operandsFit
  have hwritten : regionWritten (s.begin (commandWord 0x08)).clearTab (latchOf s) = true :=
    (regionWritten_iff _ _).2 hs.written
  have hwritten' : regionWritten (s.begin (commandWord 0x09)) (latchOf s) = true := (regionWritten_iff _ _).2 hs.written
  rw [exec, execVlcBuild, startCommand_free hs.idle, hbuild, exec, execVlcDecode,
    startFamily_checked hs.idle hs.operandsFit]
  have hrange : 1 ≤ s.arg0.toNat → s.arg0.toNat ≤ 8192 →
      ¬ ((latchOf s).a0 < 1 ∨ Config.sitCap < (latchOf s).a0) := fun hpos hle hbad =>
    hbad.elim (Nat.not_lt.2 hpos) (Nat.not_lt.2 hle)
  refine ⟨fun hbad => if_pos hbad, fun hpos hle hshort => (if_neg (hrange hpos hle)).trans ?_,
    fun hpos hle hfield hpairs => (if_neg (hrange hpos hle)).trans ?_,
    fun hvalid => (if_neg (ne_false_of_eq_true hvalid)).trans (requireInput_ok hwritten' _),
    fun hinvalid => if_pos hinvalid⟩
  · split
    · rfl
    case isFalse hfield => exact (requireInput_ok hwritten _).trans (if_pos (hshort.resolve_left hfield))
  · exact (if_neg (Nat.not_lt.2 hfield)).trans
      ((requireInput_ok hwritten _).trans (if_neg (Nat.not_lt.2 hpairs)))

/-! ### O11 -/

/-- Settles O11: the tests of the turn in their order, then what the tables read. -/
theorem vlcStepRunsTheToken : Obligations.VlcStepRunsTheToken := by
  intro s l w hh he
  rw [step_engine he hh, engineTurn]
  refine ⟨fun i rest hlim hp hi => ?_, fun hlim hwords => ?_, fun hlim hend => ?_⟩
  · rw [vlcDecodeTurn, if_neg (by omega), regionBits, if_neg (Nat.not_le.2 hp), hi]
    rfl
  · rw [vlcDecodeTurn, if_pos ⟨hlim, hwords⟩]
    rfl
  · rw [vlcDecodeTurn, if_neg (by omega)]
    split
    · rfl
    case isFalse hp =>
      rw [regionBits, hend.resolve_left hp]
      rfl

/-! ## The tokens of VLC_DECODE -/

section
variable {s : State} {l : Latch} {w : VlcDecodeWork}

theorem vlcWord_withOutput (h : Room s l 4) (v : Word) (len : Nat) :
    vlcWord v len l w s =
      .next ((withOutput s (leBytes v)).setRun l (.vlcDecode { p := w.p + len, words := w.words + 1 })) := by
  rw [vlcWord, emitAll_withOutput (bs := leBytes v) h, afterEmit]

/-- A zero-length code faults before it emits (R247). -/
theorem exec_vlcTerm_nil (he : s.engine = .run l (.vlcDecode w)) {v : Word}
    (hentry : vlcEntry (tablesOf s) [] = some { kind := .terminal, val := v, len := 0 }) :
    exec (.vlcTerm []) s = .next (raise .vlcZeroLengthCode (bitIp l w.p) s) := by
  rw [exec, execVlcTerm, withVlcDecode_run he (by simp [Instr.fits, hentry]), hentry]
  exact if_pos rfl

/-- A walk that ends on a SIT cell never written is refused (R303). -/
theorem exec_vlcDeep_unwritten (he : s.engine = .run l (.vlcDecode w)) {path : List Bool} {node : Word} {idx : Nat}
    (hlong : 8 ≤ path.length)
    (hentry : vlcEntry (tablesOf s) path = some { kind := .deferred, val := node, len := 8 })
    (hwalk : vlcDescend (tablesOf s) (.inner node.toNat) (path.drop Config.vlcLook) =
      some (.leaf idx, path.length - 8))
    (hsit : Mem.read s.sit idx = none) : exec (.vlcDeep path) s = .refused .unwrittenSit := by
  have hlook : Config.vlcLook + (path.length - 8) = path.length := Nat.add_sub_cancel' hlong
  have hidx : vlcDeepIndex (tablesOf s) path = some idx := by simp [vlcDeepIndex, hentry, hwalk]
  rw [exec, execVlcDeep, withVlcDecode_run he (by simp [Instr.fits, hentry, hwalk, hlook]), hidx]
  simp only [hsit]

end

/-! ### O42 -/

/-- Settles O42: with a path the entry's word goes out, without one the code is the zero-length code. -/
theorem vlcTermResult : Obligations.VlcTermResult := by
  refine fun s l w path v he hentry => ⟨fun hne hroom => ?_, ?_⟩
  · rw [exec_vlcTerm he hne hentry, vlcWord_withOutput hroom]
    rfl
  · rintro rfl
    exact exec_vlcTerm_nil he hentry

/-! ### O43 -/

/-- Settles O43: the run, cut at the limit (R248), is emitted after the cursor has moved. -/
theorem vlcZrunResult : Obligations.VlcZrunResult := by
  intro s l w path run cut he _ hentry hcut hroom
  obtain rfl : cut = vlcCutRun l w.words run := hcut
  rw [exec_vlcZrun he hentry, emitAll_withOutput (by rwa [List.length_replicate]), afterEmit]

/-! ### O44 -/

/-- Settles O44: the walk ends on a SIT index, whose word goes out if the host has written it. -/
theorem vlcDeepResult : Obligations.VlcDeepResult := by
  refine fun s l w path node idx he hlong hentry hwalk => ⟨fun v hsit hroom => ?_,
    exec_vlcDeep_unwritten he hlong hentry hwalk⟩
  rw [exec_vlcDeep he hlong hentry hwalk hsit, vlcWord_withOutput hroom]
  rfl

/-! # VLC_BUILD left alone -/

section
variable {s : State} {l : Latch} {cnt sc : Nat}

/-- VLC_BUILD with `i` pairs read (R234). -/
def buildAt (s : State) (l : Latch) (cnt sc i : Nat) : State :=
  (s.setTab1 (dictPairs s l i)).setRun l (.vlcBuild { p := 13 + 26 * i, cnt := cnt, s := sc })

@[simp] theorem dictPairs_length (s : State) (l : Latch) (cnt : Nat) : (dictPairs s l cnt).length = cnt := by
  simp [dictPairs]

theorem buildAt_zero (he : s.engine = .run l (.vlcBuild { p := 13, cnt := cnt, s := sc })) (htab : s.tab1 = []) :
    buildAt s l cnt sc 0 = s := by
  have hself : s.setTab1 [] = s := by rw [State.setTab1, ← htab]
  rw [buildAt, dictPairs, List.range_zero, List.map_nil, hself]
  exact setRun_self he

theorem step_buildAt (hh : s.host = []) {i : Nat} (hi : i < cnt) :
    step (buildAt s l cnt sc i) = .next (buildAt s l cnt sc (i + 1)) := by
  have hlt : (buildAt s l cnt sc i).tab1.length < cnt := (dictPairs_length s l i).trans_lt hi
  rw [step_engine (s := buildAt s l cnt sc i) rfl hh, engineTurn, runTurn_own, vlcBuildTurn, if_pos hlt, buildAt,
    buildAt, dictPairs, dictPairs, List.range_succ, List.map_append]
  rfl

/-- A run that goes on for one step more. -/
theorem run_succ {k : Nat} {t : State} {o : Out} (h : Host.Core.run core k s = .next t) (ho : step t = o) :
    Host.Core.run core (k + 1) s = o := by
  rw [run_add h 1]
  subst ho
  cases hstep : step t <;> simp only [Host.Core.run, show core.step t = _ from hstep] <;> rfl

/-- Left alone, VLC_BUILD reads a pair a step. -/
theorem run_buildAt (hh : s.host = []) {i : Nat} (hi : i ≤ cnt) :
    Host.Core.run core i (buildAt s l cnt sc 0) = .next (buildAt s l cnt sc i) := by
  induction i with
  | zero => rfl
  | succ i ih => exact run_succ (ih (Nat.le_of_lt hi)) (step_buildAt hh hi)

/-- After the pairs comes the end (R233). -/
theorem run_vlcBuild (hh : s.host = []) (he : s.engine = .run l (.vlcBuild { p := 13, cnt := cnt, s := sc }))
    (htab : s.tab1 = []) :
    Host.Core.run core (cnt + 1) s =
      vlcBuildEnd { p := 13 + 26 * cnt, cnt := cnt, s := sc } (buildAt s l cnt sc cnt) := by
  have hge : ¬ (buildAt s l cnt sc cnt).tab1.length < cnt := Nat.not_lt.2 (dictPairs_length s l cnt).ge
  have hrun := run_buildAt (l := l) (sc := sc) hh (Nat.le_refl cnt)
  rw [buildAt_zero he htab] at hrun
  refine run_succ hrun ?_
  rw [step_engine (s := buildAt s l cnt sc cnt) rfl hh, engineTurn, runTurn_own, vlcBuildTurn, if_neg hge]

theorem vlcChildrenOk_dictPairs :
    vlcChildrenOk (dictPairs s l cnt) sc = true ↔
      ∀ pr ∈ dictPairs s l cnt, pr.left < sc + cnt ∧ pr.right < sc + cnt := by
  rw [vlcChildrenOk_iff, dictPairs_length]

theorem tabInfoWord_eq (cnt sc : Nat) : tabInfoWord cnt sc = BitVec.ofNat 32 (1 + 2 * cnt + 0x4000 * sc) := by
  rw [tabInfoWord, Nat.mul_comm cnt, Nat.mul_comm sc]

/-- A child that does not exist (R236). -/
theorem vlcBuildEnd_bad {w : VlcBuildWork} (h : vlcChildrenOk s.tab1 w.s = false) :
    vlcBuildEnd w s = .next (raise .vlcBadTable 0 s) := if_pos h

/-- With every child existing TAB2 decides (R237). -/
theorem vlcBuildEnd_derived {w : VlcBuildWork} (h : vlcChildrenOk s.tab1 w.s = true) {tab2 : List Tab2Entry}
    (hderive : vlcDeriveTab2 s.tab1 w.s s.sit = some tab2) :
    vlcBuildEnd w s = .next (finish 0 (bytesOfBits (vlcDictBits w.cnt))
      { s with tab2 := tab2, tabInfo := tabInfoWord w.cnt w.s }) := by
  rw [vlcBuildEnd, if_neg (ne_false_of_eq_true h), hderive]

/-- A SIT cell TAB2 needs was never written (R303). -/
theorem vlcBuildEnd_unwritten {w : VlcBuildWork} (h : vlcChildrenOk s.tab1 w.s = true)
    (hderive : vlcDeriveTab2 s.tab1 w.s s.sit = none) : vlcBuildEnd w s = .refused .unwrittenSit := by
  rw [vlcBuildEnd, if_neg (ne_false_of_eq_true h), hderive]

end

/-! ### O41 -/

/-- Settles O41: a pair a step, then the end's two tests. -/
theorem vlcBuildWholeRun : Obligations.VlcBuildWholeRun := by
  intro s l cnt sc hh he htab
  have hrun := run_vlcBuild hh he htab
  refine ⟨fun tab2 hok hderive => ⟨_, hrun.trans ?_⟩, fun ⟨pr, hpr, hbad⟩ => ⟨_, hrun.trans ?_⟩,
    fun hok hderive => ⟨_, hrun.trans (vlcBuildEnd_unwritten (vlcChildrenOk_dictPairs.2 hok) hderive)⟩⟩
  · rw [← tabInfoWord_eq]
    exact vlcBuildEnd_derived (s := buildAt s l cnt sc cnt) (vlcChildrenOk_dictPairs.2 hok) hderive
  · refine vlcBuildEnd_bad (s := buildAt s l cnt sc cnt) (Bool.eq_false_of_not_eq_true fun hok => ?_)
    obtain ⟨hleft, hright⟩ := vlcChildrenOk_dictPairs.1 hok pr hpr
    exact hbad.elim (Nat.not_le.2 hleft) (Nat.not_le.2 hright)

end Sys2Proof.Machine

/-! PROOFS. The family of `70_reset_and_hazards.md`: what reset leaves, and that every step of a running command ends it
or leaves fewer steps (`Advances`), so that every command ends. -/

/-! # Reset -/

namespace Sys2Proof.Machine

/-! ### O6 -/

/-- What reset keeps is in no register (R10; log 18). -/
theorem regValue_hostReset (s : State) (r : Nat) : regValue (hostReset s) r = 0 := by
  unfold regValue
  split <;> rfl

theorem regValue_reset (r : Nat) : regValue State.reset r = 0 := regValue_hostReset State.reset r

/-- Settles O6: reset as an event is the host's move, due at once. -/
theorem resetLeavesTheBlockIdle : Obligations.ResetLeavesTheBlockIdle :=
  ⟨regValue_reset, rfl, fun _ => step_idle, fun s rest hh =>
    ⟨hostReset (s.setHost rest), step_host hh (.inr rfl), rfl, regValue_hostReset _, rfl⟩⟩

/-! ### O52 -/

theorem reset_ctlOk : CtlOk State.reset :=
  ⟨(by decide : State.reset.status ∈ idleStatuses), by decide⟩

theorem reset_tabOk : TabOk State.reset := TablesOk.idle (tablesOk_of_dead rfl) rfl

/-- Settles O52: the stores are empty, TAB_INFO is 0, and of an idle engine the working-state invariants ask nothing. -/
theorem resetMeetsTheInvariants : Obligations.ResetMeetsTheInvariants :=
  ⟨reset_mem_wf, reset_ctlOk, reset_tabOk, ⟨nofun, nofun⟩, nofun, ⟨nofun, nofun⟩, nofun⟩

end Sys2Proof.Machine

/-! # A step of a running command ends it or leaves fewer steps (R311) -/

namespace Sys2Proof.Machine

/-- What a step of a running command `c` with at most `n` steps left comes to: it ends; it goes on with fewer steps
left; a token has no meaning, which no legal state meets (log 14); or it reads a SIT cell that was never written, which
only the VLC commands do (R303). -/
inductive Advances (c : Instr) (l : Latch) (n : Nat) : Out → Prop
  | ends {t : State} (hidle : t.engine = .idle) (hdone : doneBit t = true) : Advances c l n (.next t)
  | goesOn {u : State} {w : Work} (hcommand : w.command = c) (hless : stepsLeft u l w < n) :
      Advances c l n (.next (u.setRun l w))
  | notFetchable : Advances c l n (.refused .tokenNotFetchable)
  | unwrittenSit (hc : c = .vlcBuild ∨ c = .vlcDecode) : Advances c l n (.refused .unwrittenSit)

section
variable {c : Instr} {l : Latch} {n : Nat} {s : State}

theorem Advances.of_eq {o o' : Out} (h : o = o') (ho : Advances c l n o') : Advances c l n o := h ▸ ho

theorem advances_raise (f : BlockFault) (pos : Nat) : Advances c l n (.next (raise f pos s)) :=
  .ends rfl (by simp [doneBit, statusFaulted, statusDone, statusErr])

/-- The flags of a normal end leave DONE set (R104). -/
theorem advances_finish (flags : Reg) (used : Nat) : Advances c l n (.next (finish flags used s)) := by
  refine .ends rfl ?_
  rw [doneBit, finish_status, statusFinished, BitVec.getLsbD_or]
  rfl

theorem Overflows.advances {e : State} (h : Overflows l s e) : Advances c l n (.next e) := by
  obtain ⟨u, pos, -, rfl⟩ := h
  exact advances_raise _ _

/-- Output goes on or ends the command in OutputOverflow (R105). -/
theorem advances_afterEmit (cap ip : Nat) (bs : List Byte) {k : State → Out} (hk : ∀ u, Advances c l n (k u)) :
    Advances c l n (afterEmit (emitAll cap ip bs s) k) := by
  rcases emitAll_result cap ip bs s with ⟨-, heq⟩ | ⟨cs, -, -, heq⟩
  · rw [heq]
    exact hk _
  · rw [heq]
    exact advances_raise _ _

/-! ## RLE (R200) -/

theorem advances_rleOut {w : RleDecWork} (hless : stepsLeft s l (.rleDec w) < n) (bs : List Byte) (b : Byte) :
    Advances .rleDec l n (rleOut bs b l w s) :=
  advances_afterEmit _ _ _ fun _ => .goesOn rfl hless

theorem advances_rleToken {w : RleDecWork} (he : s.engine = .run l (.rleDec w))
    (hless : stepsLeft s l (.rleDec w) < n) {i : Instr} {bs : List Byte} (hi : encode i = .rle bs) :
    Advances .rleDec l n (exec i s) := by
  cases i with
  | rleByte | rleEsc => exact .of_eq (withRleDec_run he _) (advances_rleOut hless _ _)
  | rleRun k =>
    refine .of_eq (withRleDec_run he _) ?_
    split
    · exact advances_raise _ _
    · exact advances_rleOut hless _ _
  | _ => cases hi

/-- A token takes at least a byte of the region. -/
theorem advances_rleDecTurn (w : RleDecWork) :
    Advances .rleDec l (stepsLeft s l (.rleDec w)) (runTurn (rleDecTurn l w s)) := by
  unfold rleDecTurn
  split
  · exact advances_finish _ _
  case isFalse hend =>
    dsimp only
    split
    · exact advances_raise _ _
    case h_2 i rest hi =>
      obtain ⟨-, us, hus, hread⟩ := encode_of_decodeRle hi
      refine advances_rleToken rfl ?_ hus
      have hlen := congrArg List.length hread
      rw [List.length_append] at hlen
      have hpos := (rleToken_length hus).1
      simp only [stepsLeft]
      omega

/-- A group stands for at least an input byte. -/
theorem advances_rleEncTurn (w : RleEncWork) :
    Advances .rleEnc l (stepsLeft s l (.rleEnc w)) (rleEncTurn l w s) := by
  unfold rleEncTurn
  split
  case isTrue hi =>
    refine advances_afterEmit _ _ _ fun u => .goesOn rfl ?_
    obtain ⟨b, tl, hd⟩ := List.exists_cons_of_length_pos (l := (regionBytes s l).drop w.i) (by simpa using hi)
    have hpos := rleGroup_snd_pos b tl
    rw [hd]
    simp only [stepsLeft]
    omega
  case isFalse => exact advances_finish _ _

/-! ## LZSS (R137, R155) -/

/-- How far the window is filled does not count. -/
theorem stepsLeft_lzssDec_window (u s : State) (l : Latch) (w : LzssDecWork) (wp total : Nat) :
    stepsLeft u l (.lzssDec { w with wp := wp, total := total }) = stepsLeft s l (.lzssDec w) := rfl

theorem advances_lzssSlide {w : LzssDecWork} (hless : stepsLeft s l (.lzssDec w) < n) (u : State) :
    Advances .lzssDec l n (lzssSlide l w u) := by
  unfold lzssSlide
  split
  · exact advances_afterEmit _ _ _ fun _ => .goesOn rfl ((stepsLeft_lzssDec_window _ s l w _ _).trans_lt hless)
  · exact .goesOn rfl hless

theorem advances_lzssCopy {w : LzssDecWork} (hless : stepsLeft s l (.lzssDec w) < n) (len dist : Nat) :
    Advances .lzssDec l n (lzssCopy len dist l w s) := by
  unfold lzssCopy
  split
  · exact advances_raise _ _
  · exact advances_lzssSlide ((stepsLeft_lzssDec_window s s l w _ _).trans_lt hless) _

theorem advances_lzssEnd (flags : Reg) (w : LzssDecWork) : Advances .lzssDec l n (lzssEnd flags l w s) :=
  advances_afterEmit _ _ _ fun _ => advances_finish _ _

theorem advances_lzssToken {w : LzssDecWork} (he : s.engine = .run l (.lzssDec w))
    (hless : stepsLeft s l (.lzssDec w) < n) {i : Instr} {us : List LzssUnit} (hi : encode i = .lzss us) :
    Advances .lzssDec l n (exec i s) := by
  cases i with
  | lzssLit =>
    exact .of_eq (withLzssDec_run he _)
      (advances_lzssSlide ((stepsLeft_lzssDec_window s s l w _ _).trans_lt hless) _)
  | lzssSeg => exact .of_eq (withLzssDec_run he _) (advances_lzssSlide hless s)
  | lzssSref | lzssLref | lzssXref => exact .of_eq (withLzssDec_run he _) (advances_lzssCopy hless _ _)
  | lzssEnd => exact .of_eq (withLzssDec_run he _) (advances_lzssEnd _ _)
  | _ => cases hi

/-- A refill trades two bytes of the region for their sixteen bits (R121). -/
theorem stepsLeft_lzssRefill_le {w : LzssDecWork} (hcnt : w.bitcnt = 0) :
    stepsLeft s l (.lzssDec (lzssRefill s l w)) ≤ stepsLeft s l (.lzssDec w) := by
  unfold lzssRefill
  split
  case isTrue hroom =>
    simp only [stepsLeft, Config.lzssCtlBytes, Config.lzssCtlw] at *
    omega
  case isFalse =>
    simp only [stepsLeft]
    omega

/-- Taking a bit leaves a step fewer, refill or not (R122). -/
theorem stepsLeft_lzssGetBit_lt {w : LzssDecWork} (hcnt : w.bitcnt ≠ 0) :
    stepsLeft s l (.lzssDec (lzssGetBit s l w).2) < stepsLeft s l (.lzssDec w) := by
  have htake : stepsLeft s l (.lzssDec { w with bitbuf := w.bitbuf >>> 1, bitcnt := w.bitcnt - 1 }) <
      stepsLeft s l (.lzssDec w) := by
    simp only [stepsLeft]
    omega
  by_cases hlast : w.bitcnt - 1 = 0
  · have hrefill := stepsLeft_lzssRefill_le (s := s) (l := l)
      (w := { w with bitbuf := w.bitbuf >>> 1, bitcnt := w.bitcnt - 1 }) hlast
    simpa [lzssGetBit, Config.lzssEagerRefill, hlast] using hrefill.trans_lt htake
  · simpa [lzssGetBit, Config.lzssEagerRefill, hlast] using htake

/-- No unit of a token adds to the steps left. -/
theorem stepsLeft_lzssFetchFrom_le {fuel : Nat} {got : List LzssUnit} {w w' : LzssDecWork} {i : Instr}
    (h : lzssFetchFrom s l fuel got w = .token i w') :
    stepsLeft s l (.lzssDec w') ≤ stepsLeft s l (.lzssDec w) := by
  induction fuel generalizing got w with
  | zero => cases h
  | succ fuel ih =>
    rw [lzssFetchFrom] at h
    split at h
    case h_1 =>
      cases h
      exact Nat.le_refl _
    case h_2 => cases h
    case h_3 =>
      dsimp only at h
      split at h
      · cases h
      case isFalse hcnt => exact (ih h).trans (stepsLeft_lzssGetBit_lt hcnt).le
    case h_4 =>
      split at h
      · cases h
      · refine (ih h).trans ?_
        simp only [stepsLeft]
        omega

/-- A token opens with a bit (R62), so fetching one leaves fewer steps. -/
theorem stepsLeft_lzssFetch_lt {w w' : LzssDecWork} {i : Instr} (hcnt : w.bitcnt ≠ 0)
    (h : lzssFetch s l w = .token i w') : stepsLeft s l (.lzssDec w') < stepsLeft s l (.lzssDec w) := by
  rw [lzssFetch, lzssFetchFrom] at h
  simp only [lzssWant] at h
  split at h
  · cases h
  · exact (stepsLeft_lzssFetchFrom_le h).trans_lt (stepsLeft_lzssGetBit_lt hcnt)

theorem advances_lzssDecTurn (w : LzssDecWork) :
    Advances .lzssDec l (stepsLeft s l (.lzssDec w)) (runTurn (lzssDecTurn l w s)) := by
  rcases lzssDecTurn_cases l w s with hcnt | ⟨ip, hcnt, hf⟩ | ⟨i, w', hcnt, hf⟩
  · rw [lzssDecTurn_soft hcnt]
    exact advances_lzssEnd _ _
  · rw [lzssDecTurn_exhausted hcnt hf]
    exact advances_raise _ _
  · rw [lzssDecTurn_token hcnt hf, runTurn_instr]
    obtain ⟨us, hus⟩ := (lzssFetch_token hf).1.units
    have hless := stepsLeft_lzssFetch_lt hcnt hf
    exact advances_lzssToken (setRun_engine s l _) hless hus

/-- A chosen token stands for at least an input byte. -/
theorem advances_lzssEncTurn (w : LzssEncWork) :
    Advances .lzssEnc l (stepsLeft s l (.lzssEnc w)) (lzssEncTurn l w s) := by
  unfold lzssEncTurn
  split
  case isTrue hpos =>
    have hadv := (lzssChoose_chosen 0 (d := regionBytes s l) (by simpa using hpos)).advance_pos
    dsimp only
    split
    · exact (lzssPutAll_error ‹_›).advances
    · refine .goesOn rfl ?_
      simp only [stepsLeft]
      omega
  case isFalse =>
    split
    · exact (lzssPutAll_error ‹_›).advances
    · exact advances_afterEmit _ _ _ fun _ => advances_finish _ _

/-! ## LZW (R176) -/

theorem advances_lzwOutput {w : LzwDecWork} (hless : stepsLeft s l (.lzwDec w) < n) (e : List Byte) (k : Nat) :
    Advances .lzwDec l n (lzwOutput e k l w s) :=
  advances_afterEmit _ _ _ fun _ => .goesOn rfl hless

theorem advances_lzwToken {w : LzwDecWork} (he : s.engine = .run l (.lzwDec w))
    (hless : stepsLeft s l (.lzwDec w) < n) {i : Instr} {k : Nat} (hi : encode i = .lzw k) :
    Advances .lzwDec l n (exec i s) := by
  cases i with
  | lzwByte => exact .of_eq (withLzwDec_run he _) (advances_lzwOutput hless _ _)
  | lzwClr => exact .of_eq (withLzwDec_run he _) (.goesOn rfl hless)
  | lzwEntry | lzwKwk =>
    refine .of_eq (withLzwDec_run he _) ?_
    split
    · split
      · exact advances_lzwOutput hless _ _
      · exact .notFetchable
    · exact .notFetchable
  | _ => cases hi

/-- A code takes at least nine bits of the region. -/
theorem advances_lzwDecTurn {w : LzwDecWork} (hw : LzwDecOk l w) :
    Advances .lzwDec l (stepsLeft s l (.lzwDec w)) (runTurn (lzwDecTurn l w s)) := by
  unfold lzwDecTurn
  dsimp only
  split
  · exact advances_finish _ _
  case isFalse hbits =>
    split
    · exact advances_raise _ _
    case h_2 i hi =>
      obtain ⟨k, hk⟩ := decodeLzw_encode hi
      refine advances_lzwToken rfl ?_ hk
      have hwide := hw.width_ge
      simp only [stepsLeft]
      omega

theorem advances_lzwEncTurn (w : LzwEncWork) :
    Advances .lzwEnc l (stepsLeft s l (.lzwEnc w)) (lzwEncTurn l w s) := by
  unfold lzwEncTurn
  split
  case isTrue hi =>
    refine advances_afterEmit _ _ _ fun _ => .goesOn rfl ?_
    have hstep := (lzwEncByte_step w (inByte s (l.off + w.i))).i_eq
    simp only [stepsLeft]
    omega
  case isFalse => exact advances_afterEmit _ _ _ fun _ => advances_finish _ _

/-! ## WAVELET_INV (R219) -/

theorem stepsLeft_wavelet_none {w : WaveletWork} (hy : w.y = none) :
    stepsLeft s l (.wavelet w) = 2 * (w.size - w.t) + 1 := by
  simp [stepsLeft, hy]

theorem stepsLeft_wavelet_some {w : WaveletWork} {y : List Word} (hy : w.y = some y) :
    stepsLeft s l (.wavelet w) = 2 * (w.size - w.t) := by
  simp [stepsLeft, hy]

/-- Below the plane's width a tile size, being the width halved some times, is at most half of it (R211). -/
theorem WaveletOk.two_mul_le {w : WaveletWork} (hw : WaveletOk l w) (hlt : w.t < w.size) : 2 * w.t ≤ w.size := by
  obtain ⟨k, hk⟩ := hw.sizes
  cases k with
  | zero => omega
  | succ k =>
    have hle := Nat.le_mul_of_pos_right (w.t * 2) (Nat.two_pow_pos k)
    rw [Nat.pow_succ', ← Nat.mul_assoc] at hk
    omega

/-- A vertical pass doubles the tile size; a horizontal one is half of the work towards it. -/
theorem advances_waveletTurn {w : WaveletWork} (hw : WaveletOk l w) :
    Advances .waveletInv l (stepsLeft s l (.wavelet w)) (waveletTurn l w s) := by
  have hpos := hw.t_pos
  unfold waveletTurn
  split
  case h_1 y hy =>
    refine .goesOn rfl ?_
    have hle := hw.two_mul_le (hw.scratch y hy).2
    rw [stepsLeft_wavelet_none rfl, stepsLeft_wavelet_some hy]
    dsimp only
    omega
  case h_2 hy =>
    split
    case isTrue hlt =>
      split
      · exact advances_raise _ _
      · refine .goesOn rfl ?_
        rw [stepsLeft_wavelet_some rfl, stepsLeft_wavelet_none hy]
        exact Nat.lt_succ_self _
    case isFalse => exact advances_finish _ _

/-! ## VLC (R234, R252) -/

theorem advances_vlcBuildTurn (w : VlcBuildWork) :
    Advances .vlcBuild l (stepsLeft s l (.vlcBuild w)) (vlcBuildTurn l w s) := by
  unfold vlcBuildTurn
  split
  case isTrue hlt =>
    refine .goesOn rfl ?_
    simp only [stepsLeft, setTab1_tab1, List.length_append, List.length_singleton]
    omega
  case isFalse =>
    unfold vlcBuildEnd
    split
    · exact advances_raise _ _
    · split
      · exact .unwrittenSit (.inl rfl)
      · exact advances_finish _ _

/-- The cursor moves on inside the region. -/
theorem stepsLeft_vlcDecode_lt {w w' : VlcDecodeWork} (hin : w.p < regionBits l) (hmove : w.p < w'.p) (u : State) :
    stepsLeft u l (.vlcDecode w') < stepsLeft s l (.vlcDecode w) := by
  simp only [stepsLeft]
  omega

theorem advances_vlcWord {w : VlcDecodeWork} (hin : w.p < regionBits l) {len : Nat} (hlen : 0 < len) (v : Word) :
    Advances .vlcDecode l (stepsLeft s l (.vlcDecode w)) (vlcWord v len l w s) :=
  advances_afterEmit _ _ _ fun u => .goesOn rfl (stepsLeft_vlcDecode_lt hin (Nat.lt_add_of_pos_right hlen) u)

/-- A token that fits the tables has bits: a TERM with none faults (R247), and a DEEP is longer than the lookahead. -/
theorem advances_vlcToken {w : VlcDecodeWork} (he : s.engine = .run l (.vlcDecode w)) (hin : w.p < regionBits l)
    {i : Instr} {bits : List Bool} (hi : encode i = .vlc bits)
    (hfits : i.fits { lzw := { next := 0, maxW := 0, havePrev := false }, vlc := tablesOf s } = true) :
    Advances .vlcDecode l (stepsLeft s l (.vlcDecode w)) (exec i s) := by
  cases i with
  | vlcTerm path =>
    refine .of_eq (withVlcDecode_run he hfits _) ?_
    obtain ⟨e, hentry, -, hlen⟩ := fits_vlcTerm hfits
    simp only [hentry]
    split
    · exact advances_raise _ _
    case isFalse hne => exact advances_vlcWord hin (by omega) _
  | vlcZrun path run =>
    refine .of_eq (withVlcDecode_run he hfits _) (advances_afterEmit _ _ _ fun u => .goesOn rfl ?_)
    refine stepsLeft_vlcDecode_lt hin ?_ u
    simp only [Config.vlcZrunBits]
    omega
  | vlcDeep path =>
    refine .of_eq (withVlcDecode_run he hfits _) ?_
    obtain ⟨e, idx, k, -, -, -, hlen⟩ := fits_vlcDeep hfits
    rw [Config.vlcLook] at hlen
    split
    · exact .notFetchable
    · split
      · exact .unwrittenSit (.inr rfl)
      · exact advances_vlcWord hin (by omega) _
  | _ => cases hi

theorem advances_vlcDecodeTurn {w : VlcDecodeWork} (he : s.engine = .run l (.vlcDecode w))
    (hbuilt : TablesBuilt (tablesOf s) s.sit) :
    Advances .vlcDecode l (stepsLeft s l (.vlcDecode w)) (runTurn (vlcDecodeTurn l w s)) := by
  unfold vlcDecodeTurn
  split
  · exact advances_finish _ _
  split
  · exact advances_finish _ _
  case isFalse hin =>
    split
    case h_1 hi =>
      obtain ⟨bits, hbits⟩ := decodeVlc_encode hi
      exact advances_vlcToken he (Nat.lt_of_not_le hin) hbits (hbuilt.fits_of_decodeVlc hi _)
    case h_2 => exact .notFetchable
    case h_3 => exact advances_finish _ _

/-! ## Every command -/

theorem advances_engineTurn {w : Work} (he : s.engine = .run l w) (htab : TabOk s) (hlzw : LzwInv s)
    (hwav : WaveletInv s) : Advances w.command l (stepsLeft s l w) (runTurn (engineTurn l w s)) := by
  cases w with
  | lzssDec w => exact advances_lzssDecTurn w
  | lzssEnc w => exact advances_lzssEncTurn w
  | lzwDec w => exact advances_lzwDecTurn (hlzw.1 l w he)
  | lzwEnc w => exact advances_lzwEncTurn w
  | rleDec w => exact advances_rleDecTurn w
  | rleEnc w => exact advances_rleEncTurn w
  | wavelet w => exact advances_waveletTurn (hwav l w he)
  | vlcBuild w => exact advances_vlcBuildTurn w
  | vlcDecode w => exact advances_vlcDecodeTurn he (htab.valid (htab.decoding l w he)).1

end

/-! # Every command ends -/

/-- What the end of a command is (R311): idle and DONE, or, of a VLC command, the refusal of R303. -/
def CommandEnd (c : Instr) (o : Out) : Prop :=
  (∃ t, o = .next t ∧ t.engine = .idle ∧ doneBit t = true) ∨
    ((c = .vlcBuild ∨ c = .vlcDecode) ∧ o = .refused .unwrittenSit)

/-- A command running in a legal state, with no access of the host pending. -/
structure LegalRun (s : State) (l : Latch) (w : Work) : Prop where
  host : s.host = []
  engine : s.engine = .run l w
  tab : TabOk s
  lzw : LzwInv s
  wavelet : WaveletInv s

section
variable {s : State} {l : Latch} {w : Work}

/-- A running command has a step left: between a horizontal and a vertical pass the tile is smaller than the plane. -/
theorem LegalRun.stepsLeft_pos (h : LegalRun s l w) : 0 < stepsLeft s l w := by
  cases w with
  | wavelet w =>
    cases hy : w.y with
    | none => exact stepsLeft_wavelet_none hy ▸ Nat.succ_pos _
    | some y =>
      have hlt := ((h.wavelet l w h.engine).scratch y hy).2
      rw [stepsLeft_wavelet_some hy]
      omega
  | _ => exact Nat.succ_pos _

theorem LegalRun.next {t : State} {w' : Work} (h : LegalRun s l w) (hstep : step s = .next t)
    (he : t.engine = .run l w') : LegalRun t l w' := by
  obtain ⟨-, hlzw, hwav⟩ := stepKeepsWorkingState s t hstep
  exact ⟨host_of_step hstep h.host, he, stepKeepsTables s t h.tab hstep, hlzw h.lzw, hwav h.wavelet⟩

/-- The step of a running command ends it, or leaves it running in a legal state with fewer steps left. -/
theorem LegalRun.step_cases (h : LegalRun s l w) : CommandEnd w.command (step s) ∨
    ∃ t w', step s = .next t ∧ LegalRun t l w' ∧ w'.command = w.command ∧
      stepsLeft t l w' < stepsLeft s l w := by
  have hexpected := expected_engineTurn h.engine h.tab h.lzw
  have hadv := advances_engineTurn h.engine h.tab h.lzw h.wavelet
  rw [← step_engine h.engine h.host] at hexpected hadv
  generalize hstep : step s = o at *
  cases hadv with
  | ends hidle hdone => exact .inl (.inl ⟨_, rfl, hidle, hdone⟩)
  | goesOn hcommand hless => exact .inr ⟨_, _, rfl, h.next hstep rfl, hcommand, hless⟩
  | notFetchable => cases hexpected
  | unwrittenSit hc => exact .inl (.inr ⟨hc, rfl⟩)

/-- By induction on a bound of the steps left. -/
theorem LegalRun.ends {n : Nat} (h : LegalRun s l w) (hn : stepsLeft s l w ≤ n) :
    ∃ k ≤ n, CommandEnd w.command (Host.Core.run core k s) := by
  induction n generalizing s w with
  | zero => exact absurd h.stepsLeft_pos (Nat.not_lt.2 hn)
  | succ n ih =>
    rcases h.step_cases with hend | ⟨t, w', hstep, hlegal, hcommand, hless⟩
    · exact ⟨1, Nat.succ_pos n, (run_succ rfl rfl : Host.Core.run core 1 s = step s) ▸ hend⟩
    · obtain ⟨k, hk, hend⟩ := ih hlegal (Nat.le_of_lt_succ (hless.trans_le hn))
      exact ⟨k + 1, Nat.succ_le_succ hk, by rwa [run_step hstep, ← hcommand]⟩

end

theorem Work.vlc_of_command {w : Work} (h : w.command = .vlcBuild ∨ w.command = .vlcDecode) :
    (∃ v, w = .vlcBuild v) ∨ ∃ v, w = .vlcDecode v := by
  cases w with
  | vlcBuild v => exact .inl ⟨v, rfl⟩
  | vlcDecode v => exact .inr ⟨v, rfl⟩
  | _ => simp [Work.command] at h

/-! ### O59 -/

/-- Settles O59: every step leaves fewer steps, and the token it runs is one its tables or dictionary read. -/
theorem everyCommandEnds : Obligations.EveryCommandEnds := by
  intro s l w hh he htab hlzw hwav
  obtain ⟨k, hk, hend⟩ := LegalRun.ends ⟨hh, he, htab, hlzw, hwav⟩ (Nat.le_refl _)
  exact ⟨k, hk, hend.imp_right fun ⟨hc, hrefused⟩ => ⟨Work.vlc_of_command hc, hrefused⟩⟩

end Sys2Proof.Machine
